-- ==== Sys2Proof/Word.lean ====
section
/-! DEFINITION. The bit-vector types of the block (spec/00_scope.md R6, R8): bytes, 16-bit checksum words and
32-bit registers. -/

namespace Sys2Proof

/-- One byte of the packet buffer (R20). -/
abbrev Byte := BitVec 8

/-- A 16-bit word of the checksum (R6, R100). -/
abbrev Half := BitVec 16

/-- A 32-bit register, command word or frame field (R6, R70). -/
abbrev Word := BitVec 32

end Sys2Proof
end

