-- ==== Sys2Proof/Syntax.lean ====
section
/-! DEFINITION. The six commands of the block (spec/30_encoding.md R71), one constructor per row of the opcode table.
No command word carries an operand (R70). -/

namespace Sys2Proof

/-- A command the host can write to CMD (R71). -/
inductive Instr where
  /-- CK_CLR: clear the accumulator (R111). -/
  | ckClr
  /-- CK_ADD16: add one 16-bit word (R112). -/
  | ckAdd16
  /-- CK_ADD8H: add an odd final byte as a high byte (R113). -/
  | ckAdd8h
  /-- CK_BUF: add the first FRAME_LEN bytes of the buffer (R114). -/
  | ckBuf
  /-- FR_ENCODE: stamp header and checksum of an outgoing frame (R135). -/
  | frEncode
  /-- FR_DECODE: check a received frame and extract its fields (R140). -/
  | frDecode
  deriving DecidableEq, Repr

end Sys2Proof
end

