-- ==== Sys2Proof/WellFormed.lean ====
section
/-! DEFINITION. Which command words are well formed (spec/30_encoding.md R70, R71, R73). The commands themselves carry
no operand (R70), so every one of them is; what can be ill formed is the word the host writes to CMD: its MBZ field or
its opcode. -/

namespace Sys2Proof

/-- The OP field, bits 7:0 of a command word (R70). -/
def commandOp (w : Word) : Byte := w.extractLsb' 0 8

/-- The MBZ field, bits 31:8 of a command word (R70). -/
def commandMbz (w : Word) : BitVec 24 := w.extractLsb' 8 24

/-- MBZ must be zero (R70, R73). -/
def mbzClear (w : Word) : Bool := commandMbz w == 0#24

/-- The opcodes R71 assigns. R73 lists the others: 0x00, 0x05 to 0x0F and 0x12 to 0xFF. -/
def opAssigned (op : Byte) : Bool :=
  op == 0x01#8 || op == 0x02#8 || op == 0x03#8 || op == 0x04#8 || op == 0x10#8 || op == 0x11#8

/-- A word that selects a command: MBZ zero and an assigned opcode (R71, R73). -/
def commandWordWf (w : Word) : Bool := mbzClear w && opAssigned (commandOp w)

/-- A command has no field that could be out of range (R70: no command word carries an operand). -/
def Instr.wellFormed (i : Instr) : Bool :=
  match i with
  | .ckClr => true
  | .ckAdd16 => true
  | .ckAdd8h => true
  | .ckBuf => true
  | .frEncode => true
  | .frDecode => true

end Sys2Proof
end

