-- ==== Sys2Proof/Decode.lean ====
section
/-! DEFINITION. The command decoder (spec/30_encoding.md R70 to R75), total on 32-bit words, and the encoder. A command
is the 32-bit value written to CMD, not a sequence of bytes in memory, so no byte order is involved (spec/20_memory.md
R57; log entry 13). -/

namespace Sys2Proof

/-- Why a word selects no command (R73). -/
inductive IllegalWord where
  /-- MBZ is not zero (R73). -/
  | mustBeZero
  /-- MBZ is zero and the opcode is not in the opcode map (R73). -/
  | unassignedOpcode
  deriving DecidableEq, Repr

/-- What the decoder answers: the selected command, or ILLEGAL with the reason (R75). -/
inductive Decoded where
  | command (i : Instr)
  | illegal (why : IllegalWord)
  deriving DecidableEq, Repr

/-- The command an opcode selects (R71). -/
def decodeOp (op : Byte) : Decoded :=
  if op = 0x01#8 then .command .ckClr
  else if op = 0x02#8 then .command .ckAdd16
  else if op = 0x03#8 then .command .ckAdd8h
  else if op = 0x04#8 then .command .ckBuf
  else if op = 0x10#8 then .command .frEncode
  else if op = 0x11#8 then .command .frDecode
  else .illegal .unassignedOpcode

/-- `decode_cmd` (R75): MBZ is checked first, then the opcode map of R71. -/
def decodeCmd (w : Word) : Decoded :=
  if mbzClear w then decodeOp (commandOp w) else .illegal .mustBeZero

/-- The command in an instruction of the opcode table whose bits, numbered from the least significant, are `w`; the
rows are 32 bits, one command word each. -/
def decodeTableWord (nbits w : Nat) : Option Instr :=
  match decodeCmd (BitVec.ofNat 32 (w % 2 ^ nbits)) with
  | .command i => some i
  | .illegal _ => none

/-- The command word of a command (R71), MBZ zero. -/
def encode (i : Instr) : Word :=
  match i with
  | .ckClr => 0x00000001#32
  | .ckAdd16 => 0x00000002#32
  | .ckAdd8h => 0x00000003#32
  | .ckBuf => 0x00000004#32
  | .frEncode => 0x00000010#32
  | .frDecode => 0x00000011#32

end Sys2Proof
end

