-- ==== Sys2Proof/Machine/Ones.lean ====
section
/-! DEFINITION. 16-bit one's-complement arithmetic (spec/40_checksum.md R100, R101), and the source's fold form of the same
sum (R102). The commands use the form of R101. -/

namespace Sys2Proof.Machine

/-- `ones_add(a, b)` (R100): the 17-bit sum, its carry out of bit 15 added back at bit 0. -/
def onesAdd (a b : Half) : Half :=
  let s := a.setWidth 17 + b.setWidth 17
  s.extractLsb' 0 16 + (s.extractLsb' 16 1).setWidth 16

/-- `ones_sum(ws)` (R101): from 0x0000, the words added in list order. -/
def onesSum (ws : List Half) : Half := ws.foldl onesAdd 0#16

/-- The exact sum T of a list of words (R102, R103). -/
def exactSum (ws : List Half) : Nat := (ws.map BitVec.toNat).sum

/-- The loop of `fold` (R102), at most `fuel` times. -/
def foldLoop : Nat → Nat → Nat
  | 0, s => s
  | fuel + 1, s => if s > 0xFFFF then foldLoop fuel ((s &&& 0xFFFF) + (s >>> 16)) else s

/-- `fold(T)` (R102): each turn of the loop makes the sum smaller, so T turns are enough. -/
def foldCarries (t : Nat) : Nat := foldLoop t t

end Sys2Proof.Machine
end

