-- ==== Sys2Proof/Config.lean ====
section
/-! DEFINITION. What one implementation fixes and the spec leaves OPEN: the three parameters of spec/00_scope.md R5,
and the unspecified content of the packet buffer (spec/10_state.md R20). The constants have no body, so nothing can
be proved about their values. -/

namespace Sys2Proof

/-- The byte order of the wire fields and of the checksum's word view (R5, R56). -/
inductive ByteOrder where
  /-- The byte at the lowest offset is the most significant. -/
  | be
  /-- The byte at the lowest offset is the least significant. -/
  | le
  deriving DecidableEq, Repr, Inhabited

/-- The three parameters the model takes (R5). They are the block's constant registers SIG, CONFIG and BUFSZ
(R37, R38, R39). -/
structure Params where
  /-- SIGNATURE, the protocol's 32-bit magic constant. -/
  signature : Word
  /-- BYTE_ORDER. -/
  byteOrder : ByteOrder
  /-- BUF_SIZE in bytes; 32 bits wide, so at most 2^32 - 1. -/
  bufSize : Word
  deriving DecidableEq, Repr

/-- The range R5 gives BUF_SIZE: 14 ≤ BUF_SIZE ≤ 2^32 - 1 (the upper bound is the field's width). -/
abbrev Params.wf (p : Params) : Prop := 14 ≤ p.bufSize.toNat

/-- SIGNATURE: OPEN in the spec (R5, D1). Log entry 1. -/
opaque Config.signature : Word

/-- BYTE_ORDER: OPEN in the spec (R5, D2). Log entry 2. -/
opaque Config.byteOrder : ByteOrder

/-- BUF_SIZE - 14: OPEN in the spec, and anything from 0 to 2^32 - 15 (R5, D3). Log entry 3. -/
opaque Config.payloadRoom : Fin 4294967282

/-- BUF_SIZE: 14 to 2^32 - 1 (R5). -/
def Config.bufSize : Word := BitVec.ofNat 32 (14 + Config.payloadRoom.val)

/-- The unspecified byte that PKT_BUF holds at an index, from the given launch on, until the host or a command writes
it (R20, R200, I4: any value). Log entry 4. -/
opaque Config.initialByte : (launch index : Nat) → Byte

/-- The parameters of the block under model. -/
def Config.params : Params :=
  { signature := Config.signature, byteOrder := Config.byteOrder, bufSize := Config.bufSize }

end Sys2Proof
end

