-- ==== Sys2Proof/Machine/State.lean ====
section
/-! DEFINITION. The state of the block (spec/10_state.md section 1), the accesses the host can make (spec/20_memory.md
R52, R53), and the state after reset (R41). -/

namespace Sys2Proof.Machine

/-- The values STATUS.RESULT takes (spec/60_exceptions.md R170). -/
inductive ResultCode where
  | ok
  | eSig
  | eLen
  | eCksum
  | eOversize
  | eBadcmd
  deriving DecidableEq, Repr

/-- The register names of the register port (10_state.md section 1, 30_encoding.md R81). -/
inductive Reg where
  | cmd
  | status
  | data
  | acc
  | ckResult
  | frameLen
  | hdrCmdstat
  | hdrPlen
  | hdrCksum
  | sig
  | bufsz
  | config
  deriving DecidableEq, Repr

/-- One host access, the tuple (port, direction, address, data) of R78: the constructor is the port and the direction.
`width` is the access's width in bits, since R53 speaks of accesses of a wrong width too (log entry 12). -/
inductive Access where
  /-- `RD`: (REG, R, off, -). -/
  | regRead (width : Nat) (off : BitVec 8)
  /-- `WR`: (REG, W, off, v). -/
  | regWrite (width : Nat) (off : BitVec 8) (v : Word)
  /-- `RB`: (BUF, R, i, -). -/
  | bufRead (width : Nat) (i : Word)
  /-- `WB`: (BUF, W, i, b). -/
  | bufWrite (width : Nat) (i : Word) (b : Byte)
  deriving DecidableEq, Repr

/-- What can happen to the block next (R7, R179). -/
inductive Input where
  /-- The one host makes an access (R52). -/
  | access (a : Access)
  /-- The reset input is asserted (R200). -/
  | reset
  /-- A second requester drives the block, which R62 puts outside the spec. -/
  | secondHost (a : Access)
  deriving DecidableEq, Repr

/-- What the block answered to the most recent input (R52, R53; log entry 7). -/
inductive Reply where
  /-- No value: a write, a command, a reset, or nothing yet. -/
  | none
  /-- The value of a register read. -/
  | word (v : Word)
  /-- The value of a buffer read. -/
  | byte (b : Byte)
  /-- The fault outcome of a read that caused a bus error: no value (R53, I5; log entry 8). -/
  | busError
  deriving DecidableEq, Repr

/-- The ways the machine stops. No error of the block is one of them: R26 and R177 let the block go on. -/
inductive Fault where
  /-- Raised by `step` when the host has no further access to make: R7 makes one step one host access, so there is no
  step to take. Safe: the model stops where nothing happens (log entry 6). -/
  | noHostAccess
  deriving DecidableEq, Repr

/-- What the model gives no meaning to. -/
inductive Refusal where
  /-- Raised by `exec` for a command without a meaning yet; no command is left so. Safe. -/
  | notModelled (mnemonic : String)
  /-- Raised by `step` for an access by a second host (R62: the model refuses it; I15). Safe. -/
  | secondHost
  deriving DecidableEq, Repr

/-- The state of the machine. The first nine fields are the block's (10_state.md section 1); the last three are the
model's own (log entries 5, 6 and 7). -/
structure State where
  /-- The constants SIG, BUFSZ and CONFIG (R37, R38, R39). -/
  params : Params
  /-- STATUS (R24). -/
  status : Word
  /-- DATA (R30). -/
  data : Word
  /-- ACC, the running one's-complement sum (R31). -/
  acc : Half
  /-- FRAME_LEN (R33). -/
  frameLen : Word
  /-- HDR_CMDSTAT (R34). -/
  hdrCmdstat : Word
  /-- HDR_PLEN (R35). -/
  hdrPlen : Word
  /-- HDR_CKSUM (R36). -/
  hdrCksum : Half
  /-- PKT_BUF (R20): the bytes written since reset, by index. -/
  pktBuf : List Host.Cell
  /-- The number of resets so far. -/
  launch : Nat
  /-- What the host and the reset input will do, oldest first. -/
  inputs : List Input
  /-- The answer to the most recent input. -/
  reply : Reply
  deriving DecidableEq, Repr

/-- The machine right after reset (R41): every register 0, nothing written to the buffer (R20), the parameters as
configured (R5), the host with nothing to do (log entry 6). -/
def State.reset : State :=
  { params := Config.params
    status := 0#32
    data := 0#32
    acc := 0#16
    frameLen := 0#32
    hdrCmdstat := 0#32
    hdrPlen := 0#32
    hdrCksum := 0#16
    pktBuf := []
    launch := 0
    inputs := []
    reply := .none }

end Sys2Proof.Machine
end

