-- ==== Sys2Proof/Machine/Flags.lean ====
section
/-! DEFINITION. The fields of STATUS and every way the block writes them (spec/10_state.md R24, R25, R26;
spec/60_exceptions.md R170, R173, R174; spec/20_memory.md R53). -/

namespace Sys2Proof.Machine

/-- The code of a result (R170). -/
def ResultCode.code (c : ResultCode) : BitVec 4 :=
  match c with
  | .ok => 0#4
  | .eSig => 1#4
  | .eLen => 2#4
  | .eCksum => 3#4
  | .eOversize => 4#4
  | .eBadcmd => 5#4

/-- STATUS.RESULT, bits 3:0 (R24). -/
def statusResult (st : Word) : BitVec 4 := st.extractLsb' 0 4

/-- STATUS.VALID, bit 4 (R24). -/
def statusValid (st : Word) : Bool := st.getLsbD 4

/-- The reserved bits 27:5 (R24). -/
def statusReserved (st : Word) : BitVec 23 := st.extractLsb' 5 23

/-- STATUS.F_OVERSIZE, bit 28 (R24). -/
def statusFOversize (st : Word) : Bool := st.getLsbD 28

/-- STATUS.F_CMD, bit 29 (R24). -/
def statusFCmd (st : Word) : Bool := st.getLsbD 29

/-- STATUS.F_BUS, bit 30 (R24). -/
def statusFBus (st : Word) : Bool := st.getLsbD 30

/-- STATUS.FAULT, bit 31 (R24). -/
def statusFault (st : Word) : Bool := st.getLsbD 31

/-- The sticky bits 31:28 (R26). -/
def statusSticky (st : Word) : BitVec 4 := st.extractLsb' 28 4

/-- RESULT <- c, every other bit kept (R171). -/
def setResult (c : ResultCode) (st : Word) : Word := (st &&& 0xFFFFFFF0#32) ||| c.code.setWidth 32

/-- VALID <- v, every other bit kept (R25). -/
def setValid (v : Bool) (st : Word) : Word := (st &&& 0xFFFFFFEF#32) ||| (if v then 0x00000010#32 else 0#32)

/-- F_OVERSIZE <- 1 and FAULT <- 1 (R173). -/
def setFOversize (st : Word) : Word := st ||| 0x90000000#32

/-- F_CMD <- 1 and FAULT <- 1 (R174). -/
def setFCmd (st : Word) : Word := st ||| 0xA0000000#32

/-- F_BUS <- 1 and FAULT <- 1 (R53). -/
def setFBus (st : Word) : Word := st ||| 0xC0000000#32

/-- The sticky bits a result code sets when it is raised: E_OVERSIZE and E_BADCMD are faults (R173, R174), the
integrity errors are not (R172), and OK is no error. -/
def setStickyOf (c : ResultCode) (st : Word) : Word :=
  match c with
  | .ok => st
  | .eSig => st
  | .eLen => st
  | .eCksum => st
  | .eOversize => setFOversize st
  | .eBadcmd => setFCmd st

end Sys2Proof.Machine
end

