-- ==== Sys2Proof/Machine/Ops.lean ====
section
/-! DEFINITION. The named operations over the packet buffer and the registers: reading and writing bytes and fields of
PKT_BUF (spec/10_state.md R20, spec/41_framer.md R130), completing a command, raising an error (spec/60_exceptions.md
R171), the bus error (spec/20_memory.md R53) and reset (spec/10_state.md R41). -/

namespace Sys2Proof.Machine

/-! ### The packet buffer as a list of written bytes -/

/-- The byte last written at an index, and none where nothing has been written since reset. -/
def Memory.get? : List Host.Cell → Nat → Option Byte
  | [], _ => none
  | (a, b) :: m, i => if a = i then some b else Memory.get? m i

/-- Write one byte, keeping the addresses strictly rising. -/
def Memory.put : List Host.Cell → Nat → Byte → List Host.Cell
  | [], i, v => [(i, v)]
  | (a, b) :: m, i, v =>
    if i < a then (i, v) :: (a, b) :: m
    else if i = a then (i, v) :: m
    else (a, b) :: Memory.put m i v

/-- The canonical form of a buffer of `size` bytes: indices strictly rising and all inside the buffer. An unlisted index
holds no written byte, which no entry can say, so equal buffers are equal lists (log entry 4). -/
abbrev Memory.wf (size : Nat) (m : List Host.Cell) : Prop :=
  m.Pairwise (fun c d => c.1 < d.1) ∧ ∀ c ∈ m, c.1 < size

/-- `PKT_BUF[i]` (R9): the byte last written there, or the unspecified byte the buffer held after the last reset
(R20, R60). -/
def State.bufByte (s : State) (i : Nat) : Byte :=
  (Memory.get? s.pktBuf i).getD (Config.initialByte s.launch i)

/-- `PKT_BUF[i] <- b` (R9). -/
def State.putByte (s : State) (i : Nat) (b : Byte) : State :=
  { s with pktBuf := Memory.put s.pktBuf i b }

/-- The bytes `PKT_BUF[i .. i+n-1]` (R9). -/
def State.bufBytes (s : State) (i n : Nat) : List Byte :=
  (List.range n).map fun k => s.bufByte (i + k)

/-! ### Multi-byte fields in BYTE_ORDER -/

/-- The bit position of byte `k` of an `n`-byte value in `PKT_BUF` (R130). -/
def byteShift (o : ByteOrder) (n k : Nat) : Nat :=
  match o with
  | .be => 8 * (n - 1 - k)
  | .le => 8 * k

/-- `MemRead(i, n)` (R130). -/
def State.memRead (s : State) (i n : Nat) : Nat :=
  ((List.range n).map fun k => (s.bufByte (i + k)).toNat <<< byteShift s.params.byteOrder n k).sum

/-- `MemWrite(i, n, v)` (R130). -/
def State.memWrite (s : State) (i n v : Nat) : State :=
  (List.range n).foldl
    (fun t k => t.putByte (i + k) (BitVec.ofNat 8 (v >>> byteShift s.params.byteOrder n k))) s

/-- A 32-bit field of a frame (R80). -/
def State.field32 (s : State) (i : Nat) : Word := BitVec.ofNat 32 (s.memRead i 4)

/-- The 16-bit checksum field of a frame (R80). -/
def State.field16 (s : State) (i : Nat) : Half := BitVec.ofNat 16 (s.memRead i 2)

/-! ### Ending a command -/

/-- `R.STATUS.VALID <- 0`, which every command does first (R25). -/
def State.clearValid (s : State) : State := { s with status := setValid false s.status }

/-- A command that completes: `R.STATUS.RESULT <- OK` and `R.STATUS.VALID <- v` (R24, R25). -/
def State.complete (s : State) (v : Bool) : State :=
  { s with status := setValid v (setResult .ok s.status) }

/-- `raise E_X` (R171): RESULT <- E_X, the sticky bits of E_OVERSIZE and E_BADCMD set (R173, R174), everything the
command wrote before kept. It is no trap: the block has none (R177). -/
def State.raise (s : State) (e : ResultCode) : State :=
  { s with status := setStickyOf e (setResult e s.status) }

/-- A bus error (R53): F_BUS and FAULT set, no other state changed. -/
def State.busError (s : State) : State := { s with status := setFBus s.status }

/-! ### Reset -/

/-- The reset input (R41, R200): the registers at their reset values, the constants unchanged, PKT_BUF unspecified anew.
What the host will do next is the host's and stays (log entry 10). -/
def State.applyReset (s : State) : State :=
  { State.reset with params := s.params, launch := s.launch + 1, inputs := s.inputs }

end Sys2Proof.Machine
end

