-- ==== Sys2Proof/Machine/Operands.lean ====
section
/-! DEFINITION. The operands of the commands: the words taken from DATA (spec/30_encoding.md R79) and the word view of
the packet buffer (spec/40_checksum.md R104, R105, R106). -/

namespace Sys2Proof.Machine

/-- `{hi, lo}` of two bytes (R8). -/
def joinBytes (hi lo : Byte) : Half := hi ++ lo

/-- The operand of CK_ADD16: `R.DATA[15:0]` (R79). -/
def State.dataHalf (s : State) : Half := s.data.extractLsb' 0 16

/-- The operand of CK_ADD8H: `{R.DATA[7:0], 0x00}` (R79). -/
def State.dataHighByte (s : State) : Half := joinBytes (s.data.extractLsb' 0 8) 0#8

/-- One word of the view from its two bytes, the first at the lower index (R104). -/
def pairWord (o : ByteOrder) (first second : Byte) : Half :=
  match o with
  | .be => joinBytes first second
  | .le => joinBytes second first

/-- The word view of a byte sequence (R104); an odd last byte is the high byte of a word in both orders (R105). -/
def wordView (o : ByteOrder) : List Byte → List Half
  | [] => []
  | [b] => [joinBytes b 0#8]
  | b :: c :: bs => pairWord o b c :: wordView o bs

/-- `words(i, L)` (R104). -/
def State.words (s : State) (i n : Nat) : List Half := wordView s.params.byteOrder (s.bufBytes i n)

/-- `ones_sum(words(0, L))`, the sum over the first L bytes of the buffer (R101, R104). -/
def State.frameSum (s : State) (n : Nat) : Half := onesSum (s.words 0 n)

/-- `cksum(L)` (R106). -/
def State.cksum (s : State) (n : Nat) : Half := ~~~ s.frameSum n

end Sys2Proof.Machine
end

