-- ==== Sys2Proof/Machine/Checksum.lean ====
section
/-! DEFINITION. The four checksum commands (spec/40_checksum.md R111 to R114). None of them touches PKT_BUF, FRAME_LEN,
the HDR registers or DATA. -/

namespace Sys2Proof.Machine

/-- A checksum command that cannot fail: ACC gets a value, RESULT = OK, VALID = 0 (R111, R112, R113). -/
def State.setAccOk (s : State) (v : Half) : State := { s with acc := v }.complete false

/-- CK_CLR (R111). -/
def execCkClr (s : State) : Host.Outcome State Fault Refusal := .next (s.setAccOk 0#16)

/-- CK_ADD16 (R112). -/
def execCkAdd16 (s : State) : Host.Outcome State Fault Refusal :=
  .next (s.setAccOk (onesAdd s.acc s.dataHalf))

/-- CK_ADD8H (R113). -/
def execCkAdd8h (s : State) : Host.Outcome State Fault Refusal :=
  .next (s.setAccOk (onesAdd s.acc s.dataHighByte))

/-- The pseudocode of CK_BUF (R114). -/
def ckBufState (s : State) : State :=
  let len := s.frameLen.toNat
  if len > s.params.bufSize.toNat then s.clearValid.raise .eOversize
  else s.setAccOk (onesAdd s.acc (s.frameSum len))

/-- CK_BUF (R114). -/
def execCkBuf (s : State) : Host.Outcome State Fault Refusal := .next (ckBufState s)

end Sys2Proof.Machine
end

