-- ==== Sys2Proof/Machine/Framer.lean ====
section
/-! DEFINITION. The framer commands (spec/41_framer.md R135, R140), line by line from their pseudocode. -/

namespace Sys2Proof.Machine

/-- The header FR_ENCODE stamps before it sums: signature, command_or_status, payload_length and a zero checksum field
(R135). -/
def State.stampHeader (s : State) : State :=
  (((s.memWrite 0 4 s.params.signature.toNat).memWrite 4 4 s.hdrCmdstat.toNat).memWrite 8 4
    s.hdrPlen.toNat).memWrite 12 2 0

/-- The rest of FR_ENCODE over a stamped header: sum, stamp the checksum last, write FRAME_LEN, HDR_CKSUM and ACC
(R135). -/
def State.stampChecksum (s : State) (len : Nat) : State :=
  let sum := s.frameSum len
  { s.memWrite 12 2 (~~~ sum).toNat with
    frameLen := BitVec.ofNat 32 len, hdrCksum := ~~~ sum, acc := sum }

/-- The pseudocode of FR_ENCODE (R135). The sum 14 + N is exact. -/
def frEncodeState (s : State) : State :=
  let len := 14 + s.hdrPlen.toNat
  if len > s.params.bufSize.toNat then s.clearValid.raise .eOversize
  else (s.stampHeader.stampChecksum len).complete false

/-- FR_ENCODE (R135). -/
def execFrEncode (s : State) : Host.Outcome State Fault Refusal := .next (frEncodeState s)

/-- The header registers as a successful FR_DECODE writes them, from the frame's own fields (R140). -/
def State.extractHeader (s : State) : State :=
  { s with hdrCmdstat := s.field32 4, hdrPlen := s.field32 8, hdrCksum := s.field16 12 }

/-- FR_DECODE from its checksum stage on: ACC gets the sum, then the verdict (R140). -/
def State.checkSum (s : State) (len : Nat) : State :=
  let sum := s.frameSum len
  let t := { s with acc := sum }
  if sum ≠ 0xFFFF#16 then t.clearValid.raise .eCksum
  else t.extractHeader.complete true

/-- The pseudocode of FR_DECODE (R140). The checks stand in the order of R141 and R176; the comparison L = 14 + N is
exact (R133). -/
def frDecodeState (s : State) : State :=
  let len := s.frameLen.toNat
  if len < 4 then s.clearValid.raise .eLen
  else if s.field32 0 ≠ s.params.signature then s.clearValid.raise .eSig
  else if len < 14 then s.clearValid.raise .eLen
  else if len ≠ 14 + (s.field32 8).toNat ∨ len > s.params.bufSize.toNat then s.clearValid.raise .eLen
  else s.checkSum len

/-- FR_DECODE (R140). -/
def execFrDecode (s : State) : Host.Outcome State Fault Refusal := .next (frDecodeState s)

end Sys2Proof.Machine
end

