-- ==== Sys2Proof/Machine/Dispatch.lean ====
section
/-! DEFINITION. The dispatch: one arm per command (spec/30_encoding.md R71). -/

namespace Sys2Proof.Machine

-- The meaning of each command, performed atomically in the host's write to CMD (R72).
def exec (i : Instr) (s : State) : Host.Outcome State Fault Refusal :=
  match i with
  | .ckClr => Sys2Proof.Machine.execCkClr s
  | .ckAdd16 => Sys2Proof.Machine.execCkAdd16 s
  | .ckAdd8h => Sys2Proof.Machine.execCkAdd8h s
  | .ckBuf => Sys2Proof.Machine.execCkBuf s
  | .frEncode => Sys2Proof.Machine.execFrEncode s
  | .frDecode => Sys2Proof.Machine.execFrDecode s

end Sys2Proof.Machine
end

