-- ==== Sys2Proof/Machine/HostPort.lean ====
section
/-! DEFINITION. The two host ports: the register map (spec/10_state.md section 1), the four accesses and their bus errors
(spec/20_memory.md R50 to R55), and how a write to CMD performs a command (spec/30_encoding.md R72, R73). -/

namespace Sys2Proof.Machine

/-- The offset of a register on the register port (10_state.md section 1). -/
def Reg.offset (r : Reg) : BitVec 8 :=
  match r with
  | .cmd => 0x00#8
  | .status => 0x04#8
  | .data => 0x08#8
  | .acc => 0x0C#8
  | .ckResult => 0x10#8
  | .frameLen => 0x14#8
  | .hdrCmdstat => 0x18#8
  | .hdrPlen => 0x1C#8
  | .hdrCksum => 0x20#8
  | .sig => 0x24#8
  | .bufsz => 0x28#8
  | .config => 0x2C#8

/-- The register at an offset; 0x30 to 0xFC are unmapped (R50), and an offset that is no multiple of 4 is no register's
(R52, R53). -/
def Reg.ofOffset (off : BitVec 8) : Option Reg :=
  if off = 0x00#8 then some .cmd
  else if off = 0x04#8 then some .status
  else if off = 0x08#8 then some .data
  else if off = 0x0C#8 then some .acc
  else if off = 0x10#8 then some .ckResult
  else if off = 0x14#8 then some .frameLen
  else if off = 0x18#8 then some .hdrCmdstat
  else if off = 0x1C#8 then some .hdrPlen
  else if off = 0x20#8 then some .hdrCksum
  else if off = 0x24#8 then some .sig
  else if off = 0x28#8 then some .bufsz
  else if off = 0x2C#8 then some .config
  else none

/-- The register a REG access reaches, and none where it is a bus error whatever its direction: a width other than 32,
a misaligned or an unmapped offset (R53). -/
def regSelect (width : Nat) (off : BitVec 8) : Option Reg :=
  if width = 32 then Reg.ofOffset off else none

/-- The index a BUF access reaches, and none where it is a bus error: a width other than 8, an index ≥ BUF_SIZE (R53). -/
def State.bufSelect (s : State) (width : Nat) (i : Word) : Option Nat :=
  if width = 8 ∧ i.toNat < s.params.bufSize.toNat then some i.toNat else none

/-- The value of CONFIG: bit 0 is 0 for BE and 1 for LE (R39). -/
def configWord (o : ByteOrder) : Word :=
  match o with
  | .be => 0#32
  | .le => 1#32

/-- The value a read of a register returns (R23, R24, R30 to R39). -/
def State.readReg (s : State) (r : Reg) : Word :=
  match r with
  | .cmd => 0#32
  | .status => s.status
  | .data => s.data
  | .acc => s.acc.setWidth 32
  | .ckResult => (~~~ s.acc).setWidth 32
  | .frameLen => s.frameLen
  | .hdrCmdstat => s.hdrCmdstat
  | .hdrPlen => s.hdrPlen
  | .hdrCksum => s.hdrCksum.setWidth 32
  | .sig => s.params.signature
  | .bufsz => s.params.bufSize
  | .config => configWord s.params.byteOrder

/-- A write to a register other than CMD: the four read/write registers only store the value (R55), a write to a
read-only register is a bus error (R53). A write to CMD stores nothing (R23); it performs a command, and `hostStep` does
not bring it here. -/
def State.writeReg (s : State) (r : Reg) (v : Word) : State :=
  match r with
  | .cmd => s
  | .data => { s with data := v }
  | .frameLen => { s with frameLen := v }
  | .hdrCmdstat => { s with hdrCmdstat := v }
  | .hdrPlen => { s with hdrPlen := v }
  | .status => s.busError
  | .acc => s.busError
  | .ckResult => s.busError
  | .hdrCksum => s.busError
  | .sig => s.busError
  | .bufsz => s.busError
  | .config => s.busError

/-- The word an access writes to CMD, when that is what it does: a 32-bit write at offset 0x00 (R72, R176). -/
def Access.commandWord? (a : Access) : Option Word :=
  match a with
  | .regRead _ _ => none
  | .regWrite width off v => if regSelect width off = some .cmd then some v else none
  | .bufRead _ _ => none
  | .bufWrite _ _ _ => none

/-- An access that performs no command (R52, R53, R55). -/
def State.plainAccess (s : State) (a : Access) : State :=
  match a with
  | .regRead width off =>
    match regSelect width off with
    | some r => { s with reply := .word (s.readReg r) }
    | none => { s.busError with reply := .busError }
  | .regWrite width off v =>
    match regSelect width off with
    | some r => s.writeReg r v
    | none => s.busError
  | .bufRead width i =>
    match s.bufSelect width i with
    | some k => { s with reply := .byte (s.bufByte k) }
    | none => { s.busError with reply := .busError }
  | .bufWrite width i b =>
    match s.bufSelect width i with
    | some k => s.putByte k b
    | none => s.busError

/-- An illegal word written to CMD: VALID cleared, E_BADCMD raised, nothing else (R73, R174). -/
def State.illegalCommand (s : State) : State := s.clearValid.raise .eBadcmd

/-- The state in which an input is performed: the input taken off the list, the last answer gone. -/
def State.takeInput (s : State) : State := { s with inputs := s.inputs.tail, reply := .none }

/-- A word written to CMD (R72, R75). -/
def State.command (s : State) (w : Word) : Host.Outcome State Fault Refusal :=
  match decodeCmd w with
  | .command i => exec i s
  | .illegal _ => .next s.illegalCommand

/-- One host access (R7): a command if it writes CMD, a plain access otherwise (R176: never both). -/
def State.hostAccess (s : State) (a : Access) : Host.Outcome State Fault Refusal :=
  match a.commandWord? with
  | some w => s.command w
  | none => .next (s.plainAccess a)

/-- One step: the oldest input is performed (R7, R60, R200); a second host is refused (R62). -/
def hostStep (s : State) : Host.Outcome State Fault Refusal :=
  match s.inputs with
  | [] => .fault .noHostAccess
  | .access a :: _ => s.takeInput.hostAccess a
  | .reset :: _ => .next s.takeInput.applyReset
  | .secondHost _ :: _ => .refused .secondHost

end Sys2Proof.Machine
end

