-- ==== Sys2Proof/Machine/HostAsm.lean ====
section
/-! DEFINITION. The host's side of the ports: the transaction lines of spec/30_encoding.md R81, the pseudo-instructions of
R82 with their expansions, and how a received datagram enters the block (spec/20_memory.md R58). -/

namespace Sys2Proof.Machine

/-- `RD <reg>` (R81): (REG, R, offset(reg), -). -/
def Access.rd (r : Reg) : Access := .regRead 32 r.offset

/-- `WR <reg>, <value32>` (R81): (REG, W, offset(reg), value32). -/
def Access.wr (r : Reg) (v : Word) : Access := .regWrite 32 r.offset v

/-- `RB <index>` (R81): (BUF, R, index, -). -/
def Access.rb (i : Word) : Access := .bufRead 8 i

/-- `WB <index>, <byte>` (R81): (BUF, W, index, byte). -/
def Access.wb (i : Word) (b : Byte) : Access := .bufWrite 8 i b

/-- One line of a host program (R81, R82). -/
inductive HostLine where
  | wr (r : Reg) (v : Word)
  /-- `WR` with a number in the place of the register name (R81). -/
  | wrAt (off : BitVec 8) (v : Word)
  | rd (r : Reg)
  /-- `RD` with a number in the place of the register name (R81). -/
  | rdAt (off : BitVec 8)
  | wb (i : Word) (b : Byte)
  | rb (i : Word)
  /-- A command by its mnemonic (R82). -/
  | command (i : Instr)
  /-- `ADDW <v16>` (R82). -/
  | addw (v : Half)
  /-- `ADDB <v8>` (R82). -/
  | addb (v : Byte)
  /-- `WBS <i>, <b0> <b1> ... <bk>` (R82). -/
  | wbs (i : Word) (bs : List Byte)
  deriving DecidableEq, Repr

/-- The buffer writes of `WBS`: each byte at the next index (R82). DESIGN CHOICE: past index 0xFFFFFFFF, where the exact next
index has no 32-bit encoding (R8, R78) and the spec gives the line no meaning, the index wraps to 0; no bytes are no writes
(log entry 20). -/
def writeBytes : Word → List Byte → List Access
  | _, [] => []
  | i, b :: bs => Access.wb i b :: writeBytes (i + 1) bs

/-- The transactions a line stands for (R81, R82). -/
def HostLine.expand (l : HostLine) : List Access :=
  match l with
  | .wr r v => [Access.wr r v]
  | .wrAt off v => [.regWrite 32 off v]
  | .rd r => [Access.rd r]
  | .rdAt off => [.regRead 32 off]
  | .wb i b => [Access.wb i b]
  | .rb i => [Access.rb i]
  | .command i => [Access.wr .cmd (encode i)]
  | .addw v => [Access.wr .data (v.setWidth 32), Access.wr .cmd 0x00000002#32]
  | .addb v => [Access.wr .data (v.setWidth 32), Access.wr .cmd 0x00000003#32]
  | .wbs i bs => writeBytes i bs

/-- What the host does with a received datagram of at most 2^32 - 1 bytes: its first min(D, BUF_SIZE) bytes into the
buffer from index 0 on, and its whole length D into FRAME_LEN (R58). DESIGN CHOICE: of a longer one, whose length does not fit
FRAME_LEN, the length modulo 2^32 (log entry 21). -/
def receiveDatagram (bufSize : Word) (bytes : List Byte) : List Access :=
  writeBytes 0 (bytes.take bufSize.toNat) ++ [Access.wr .frameLen (BitVec.ofNat 32 bytes.length)]

/-- A host program as the inputs of the machine. -/
def hostProgram (ls : List HostLine) : List Input := (ls.flatMap HostLine.expand).map Input.access

end Sys2Proof.Machine
end

