-- ==== Sys2Proof/Machine/Step.lean ====
section
/-! DEFINITION. One step of the machine: one host access, or the reset input (spec/00_scope.md R7, spec/70_reset_and_hazards.md
R200). -/

namespace Sys2Proof.Machine

/-- One model step (R7). -/
def step (s : State) : Host.Outcome State Fault Refusal := hostStep s

/-- The state whose next input is the host's write of the command word `w` to CMD, all else as in `s` (R72). The block
fetches nothing (R21): a command comes to it only so (log entry 15). -/
def State.withFetchWord (s : State) (nbits w : Nat) : State :=
  { s with inputs := .access (Access.wr .cmd (BitVec.ofNat 32 (w % 2 ^ nbits))) :: s.inputs }

end Sys2Proof.Machine
end

