-- ==== Sys2Proof/Safety.lean ====
section
/-! DEFINITION. What claims are stated in: the faulted run (spec/60_exceptions.md R173), the invariant of the block's state,
and the three checks on a frame (spec/41_framer.md R132, R133, R134). -/

namespace Sys2Proof.Machine

/-- A run that sets FAULT is a faulted run (R173): the premise of a claim about a run is `¬ s.Faulted` at its end. -/
abbrev State.Faulted (s : State) : Prop := statusFault s.status = true

/-- What STATUS holds in every reachable state (R24, R25): RESULT at most 5, VALID only with RESULT = OK, the reserved
bits 0, FAULT the OR of bits 30:28. -/
abbrev StatusWf (st : Word) : Prop :=
  (statusResult st).toNat ≤ 5 ∧
  (statusValid st = true → statusResult st = ResultCode.ok.code) ∧
  statusReserved st = 0#23 ∧
  statusFault st = (statusFOversize st || statusFCmd st || statusFBus st)

/-- The invariant of the machine: BUF_SIZE in its range (R5), STATUS well formed (R24), the buffer in its canonical form
and inside its size (R20). -/
abbrev State.Inv (s : State) : Prop :=
  s.params.wf ∧ StatusWf s.status ∧ Memory.wf s.params.bufSize.toNat s.pktBuf

/-- The first `n` bytes of the buffer verify (R107). -/
abbrev State.Verifies (s : State) (n : Nat) : Prop := s.frameSum n = 0xFFFF#16

/-- The signature check on a frame of length `n` (R132). -/
abbrev State.SigCheck (s : State) (n : Nat) : Prop := 4 ≤ n ∧ s.field32 0 = s.params.signature

/-- The length check on a frame of length `n` (R133), with the exact sum. -/
abbrev State.LenCheck (s : State) (n : Nat) : Prop :=
  14 ≤ n ∧ n = 14 + (s.field32 8).toNat ∧ n ≤ s.params.bufSize.toNat

/-- The checksum check on a frame of length `n` (R134). -/
abbrev State.CksumCheck (s : State) (n : Nat) : Prop := s.Verifies n

/-- One bit of one byte of the buffer flipped (R110, R146). -/
def State.flipBit (s : State) (k j : Nat) : State := s.putByte k (s.bufByte k ^^^ (1#8 <<< j))

/-- The bytes of a checksum with its two halves swapped (R109). -/
def swap16 (v : Half) : Half := joinBytes (v.extractLsb' 0 8) (v.extractLsb' 8 8)

/-- Two states that agree in everything but the content of the buffer, and in the buffer's bytes from index `lo` up to
but not including `hi`. -/
abbrev SameButBuffer (lo hi : Nat) (s t : State) : Prop :=
  t = { s with pktBuf := t.pktBuf, launch := t.launch } ∧
  ∀ i, lo ≤ i → i < hi → t.bufByte i = s.bufByte i

/-- STATUS after a command that completed with OK: RESULT 0, VALID as given, every bit from 5 up as before (R24, R25). -/
abbrev StatusOk (s t : State) (v : Bool) : Prop :=
  statusResult t.status = 0#4 ∧ statusValid t.status = v ∧
  ∀ k, 5 ≤ k → t.status.getLsbD k = s.status.getLsbD k

/-- STATUS after a raised error: RESULT its code, VALID 0, the listed sticky bits set, every other bit from 5 up as
before (R171). -/
abbrev StatusError (s t : State) (code : BitVec 4) (sticky : List Nat) : Prop :=
  statusResult t.status = code ∧ statusValid t.status = false ∧
  ∀ k, 5 ≤ k → t.status.getLsbD k = (sticky.contains k || s.status.getLsbD k)

/-- The state in which the host's next access is `a`, with `rest` to come. -/
def State.facing (s : State) (a : Access) (rest : List Input) : State := { s with inputs := .access a :: rest }

/-- `n` steps, stopping at the first stop: what `Host.Core.run` does for this machine. -/
def run : Nat → State → Host.Outcome State Fault Refusal
  | 0, s => .next s
  | n + 1, s =>
    match step s with
    | .next t => run n t
    | .fault r => .fault r
    | .refused r => .refused r

/-- The opcode map (R71). -/
def opcodeMap : List (Word × Instr) :=
  [(0x00000001#32, .ckClr), (0x00000002#32, .ckAdd16), (0x00000003#32, .ckAdd8h), (0x00000004#32, .ckBuf),
   (0x00000010#32, .frEncode), (0x00000011#32, .frDecode)]

/-- The register map with what a read returns (10_state.md section 1, R23 to R39). -/
def registerTable (s : State) : List (BitVec 8 × Word) :=
  [(0x00#8, 0#32), (0x04#8, s.status), (0x08#8, s.data), (0x0C#8, s.acc.setWidth 32), (0x10#8, (~~~ s.acc).setWidth 32),
   (0x14#8, s.frameLen), (0x18#8, s.hdrCmdstat), (0x1C#8, s.hdrPlen), (0x20#8, s.hdrCksum.setWidth 32),
   (0x24#8, s.params.signature), (0x28#8, s.params.bufSize),
   (0x2C#8, if s.params.byteOrder = .be then 0#32 else 1#32)]

/-- The offsets of the read-only registers STATUS, ACC, CK_RESULT, HDR_CKSUM, SIG, BUFSZ and CONFIG (R53). -/
def readOnlyOffsets : List Nat := [0x04, 0x0C, 0x10, 0x20, 0x24, 0x28, 0x2C]

/-- The accesses that R53 calls bus errors. -/
abbrev IsBusError (s : State) (a : Access) : Prop :=
  match a with
  | .regRead width off => width ≠ 32 ∨ off.toNat % 4 ≠ 0 ∨ 0x30 ≤ off.toNat
  | .regWrite width off _ => width ≠ 32 ∨ off.toNat % 4 ≠ 0 ∨ 0x30 ≤ off.toNat ∨ off.toNat ∈ readOnlyOffsets
  | .bufRead width i => width ≠ 8 ∨ s.params.bufSize.toNat ≤ i.toNat
  | .bufWrite width i _ => width ≠ 8 ∨ s.params.bufSize.toNat ≤ i.toNat

/-- Words added one at a time by the host: each written to DATA, then CK_ADD16 (R112). -/
def streamWords (s : State) : List Half → State
  | [] => s
  | w :: ws =>
    match exec .ckAdd16 { s with data := w.setWidth 32 } with
    | .next t => streamWords t ws
    | .fault _ => s
    | .refused _ => s

/-- The first `n` bytes of the buffer added by the host one word at a time with CK_ADD16, and an odd last byte with
CK_ADD8H (R112, R113, R114). -/
def streamBuffer (s : State) (n : Nat) : State :=
  let t := streamWords s (s.words 0 (n - n % 2))
  if n % 2 = 1 then
    match exec .ckAdd8h { t with data := (s.bufByte (n - 1)).setWidth 32 } with
    | .next u => u
    | .fault _ => t
    | .refused _ => t
  else t

end Sys2Proof.Machine
end

