-- ==== Sys2Proof/Certificates/Slice0/Obligations.lean ====
section
/-! DEFINITION. The statements for the provers. Each docstring cites the rule of spec/ it formalises. Where a statement
rests on a choice of the model's own, it names the log entry. -/

open Sys2Proof Sys2Proof.Machine

/-! ### Encodings -/

/-- Command words written out from R71, and two illegal ones (R73): an unassigned opcode, and a word with MBZ ≠ 0. -/
def Obligations.CommandWordsDecode : Prop :=
  decodeCmd 0x00000001#32 = .command .ckClr ∧ decodeCmd 0x00000004#32 = .command .ckBuf ∧
  decodeCmd 0x00000010#32 = .command .frEncode ∧ decodeCmd 0x00000011#32 = .command .frDecode ∧
  decodeCmd 0x00000012#32 = .illegal .unassignedOpcode ∧ decodeCmd 0x00000101#32 = .illegal .mustBeZero

/-- R71, R75: a command is selected only when the whole word matches, and every other word is ILLEGAL. -/
def Obligations.DecodeSelectsExactlyTheOpcodeMap : Prop :=
  ∀ w : Word,
    (∀ i, decodeCmd w = .command i ↔ (w, i) ∈ opcodeMap) ∧
    ((∀ i, (w, i) ∉ opcodeMap) → ∃ why, decodeCmd w = .illegal why)

/-- Decode and encode agree in both directions, for the decoder and for the numbered words of the opcode table. -/
def Obligations.DecodeInvertsEncode : Prop :=
  ∀ i : Instr, i.wellFormed = true →
    decodeCmd (encode i) = .command i ∧ decodeTableWord 32 (encode i).toNat = some i ∧
    (∀ w, decodeCmd w = .command i → w = encode i) ∧
    ∀ n, decodeTableWord 32 n = some i → n % 2 ^ 32 = (encode i).toNat

/-- R73, R174: exactly the words with MBZ ≠ 0 or with an opcode 0x00, 0x05 to 0x0F or 0x12 to 0xFF are illegal, and
writing one to CMD raises E_BADCMD, which sets F_CMD and FAULT and changes nothing but STATUS. -/
def Obligations.IllegalWordRaisesBadcmd : Prop :=
  ∀ (s : State) (w : Word) (rest : List Input),
    ((∃ why, decodeCmd w = .illegal why) ↔
      w.extractLsb' 8 24 ≠ 0#24 ∨ (w.extractLsb' 0 8).toNat = 0x00 ∨
      (0x05 ≤ (w.extractLsb' 0 8).toNat ∧ (w.extractLsb' 0 8).toNat ≤ 0x0F) ∨ 0x12 ≤ (w.extractLsb' 0 8).toNat) ∧
    ((∃ why, decodeCmd w = .illegal why) →
      ∃ t, step (s.facing (.regWrite 32 0x00#8 w) rest) = .next t ∧ StatusError s t 5#4 [29, 31] ∧
        t = { s with inputs := rest, reply := .none, status := t.status })

/-! ### Steps and host accesses -/

/-- R72: when the host's next access writes a command's word to CMD, the step is that command, performed on the state with
the access taken off the host's list and the last answer gone. -/
def Obligations.StepRunsTheDecodedCommand : Prop :=
  ∀ (s : State) (w : Word) (i : Instr) (rest : List Input), decodeCmd w = .command i →
    step (s.facing (.regWrite 32 0x00#8 w) rest) = exec i { s with inputs := rest, reply := .none }

/-- The word placed by `withFetchWord` is the next step's command, whatever the state (log entry 15). -/
def Obligations.PlacedWordIsTheNextCommand : Prop :=
  ∀ (s : State) (i : Instr), step (s.withFetchWord 32 (encode i).toNat) = exec i { s with reply := .none }

/-- A step goes on unless the host has nothing more to do or a second host drives the block; so no error and no set FAULT
stops the block (R26, R177). The two stops are the model's (log entries 6 and 11). -/
def Obligations.StepStopsOnlyWithoutAHostAccess : Prop :=
  ∀ s : State,
    ((∃ t, step s = .next t) ↔ (∃ a, s.inputs.head? = some (.access a)) ∨ s.inputs.head? = some .reset) ∧
    (step s = .fault .noHostAccess ↔ s.inputs = []) ∧
    (step s = .refused .secondHost ↔ ∃ a, s.inputs.head? = some (.secondHost a))

/-- 10_state.md section 1: a read of each register returns its value and changes nothing of the block. -/
def Obligations.RegisterReadsReturnTheirValues : Prop :=
  ∀ (s : State) (rest : List Input) (off : BitVec 8) (v : Word), (off, v) ∈ registerTable s →
    step (s.facing (.regRead 32 off) rest) = .next { s with inputs := rest, reply := .word v }

/-- R37, R38, R39, R53: SIG, BUFSZ and CONFIG read the parameters, a write to one of them is discarded as a bus error that sets
F_BUS and FAULT and changes no other bit of STATUS and no other state, and no step changes the parameters. -/
def Obligations.ConstantRegistersKeepTheParameters : Prop :=
  ∀ (s : State) (rest : List Input) (v : Word),
    step (s.facing (.regRead 32 0x24#8) rest) = .next { s with inputs := rest, reply := .word s.params.signature } ∧
    step (s.facing (.regRead 32 0x28#8) rest) = .next { s with inputs := rest, reply := .word s.params.bufSize } ∧
    (∃ c : Word, step (s.facing (.regRead 32 0x2C#8) rest) = .next { s with inputs := rest, reply := .word c } ∧
      c.getLsbD 0 = decide (s.params.byteOrder = .le) ∧ ∀ k, 1 ≤ k → c.getLsbD k = false) ∧
    (∀ off : BitVec 8, off = 0x24#8 ∨ off = 0x28#8 ∨ off = 0x2C#8 →
      ∃ t, step (s.facing (.regWrite 32 off v) rest) = .next t ∧
        (∀ k, t.status.getLsbD k = (k == 30 || k == 31 || s.status.getLsbD k)) ∧
        t = { s with inputs := rest, reply := .none, status := t.status }) ∧
    ∀ t, step s = .next t → t.params = s.params

/-- R30, R33, R34, R35, R55: a write to DATA, FRAME_LEN, HDR_CMDSTAT or HDR_PLEN stores the value, any 32-bit value, and
changes nothing else. -/
def Obligations.RegisterWritesOnlyStore : Prop :=
  ∀ (s : State) (rest : List Input) (v : Word),
    step (s.facing (.regWrite 32 0x08#8 v) rest) = .next { s with inputs := rest, reply := .none, data := v } ∧
    step (s.facing (.regWrite 32 0x14#8 v) rest) = .next { s with inputs := rest, reply := .none, frameLen := v } ∧
    step (s.facing (.regWrite 32 0x18#8 v) rest) = .next { s with inputs := rest, reply := .none, hdrCmdstat := v } ∧
    step (s.facing (.regWrite 32 0x1C#8 v) rest) = .next { s with inputs := rest, reply := .none, hdrPlen := v }

/-- R53: exactly the accesses it lists are bus errors. A bus error sets F_BUS and FAULT and changes no other state; a write is
discarded and a read yields no value. Any other access leaves F_BUS alone. That such a step is a next state whose answer is no
value, and the width as part of the access, are the model's (log entries 8 and 12). -/
def Obligations.BusErrorsAreExactlyTheListedAccesses : Prop :=
  ∀ (s : State) (a : Access) (rest : List Input),
    (IsBusError s a →
      ∃ t, step (s.facing a rest) = .next t ∧
        (∀ v b, t.reply ≠ .word v ∧ t.reply ≠ .byte b) ∧
        (∀ k, t.status.getLsbD k = (k == 30 || k == 31 || s.status.getLsbD k)) ∧
        t = { s with inputs := rest, reply := t.reply, status := t.status }) ∧
    (¬ IsBusError s a →
      ∃ t, step (s.facing a rest) = .next t ∧ statusFBus t.status = statusFBus s.status)

/-- R52: a buffer read inside the buffer returns the byte and changes nothing; a buffer write stores the byte and leaves every
other byte, and everything else, as before. -/
def Obligations.BufferAccessesReachOneByte : Prop :=
  ∀ (s : State) (rest : List Input) (i : Word) (b : Byte), i.toNat < s.params.bufSize.toNat →
    step (s.facing (.bufRead 8 i) rest) = .next { s with inputs := rest, reply := .byte (s.bufByte i.toNat) } ∧
    ∃ t, step (s.facing (.bufWrite 8 i b) rest) = .next t ∧
      t.bufByte i.toNat = b ∧ (∀ j, j ≠ i.toNat → t.bufByte j = s.bufByte j) ∧
      t = { s with inputs := rest, reply := .none, pktBuf := t.pktBuf }

/-- R60: a buffer read returns the value of the most recent write to the same index, and otherwise what was there. -/
def Obligations.BufferReadSeesTheLastWrite : Prop :=
  ∀ (s : State) (rest : List Input) (i j : Word) (b : Byte),
    i.toNat < s.params.bufSize.toNat → j.toNat < s.params.bufSize.toNat →
    ∃ t u, step (s.facing (.bufWrite 8 i b) (.access (.bufRead 8 j) :: rest)) = .next t ∧ step t = .next u ∧
      u.reply = .byte (if j = i then b else s.bufByte j.toNat)

/-- R55: a read that is no bus error has no side effect, answers a value, and a repeated read answers the same value. -/
def Obligations.ReadsHaveNoSideEffect : Prop :=
  ∀ (s : State) (a : Access) (rest : List Input),
    ((∃ off, a = .regRead 32 off) ∨ ∃ i, a = .bufRead 8 i) → ¬ IsBusError s a →
    ∃ t u, step (s.facing a (.access a :: rest)) = .next t ∧ step t = .next u ∧
      t = { s with inputs := .access a :: rest, reply := t.reply } ∧
      u = { s with inputs := rest, reply := t.reply } ∧
      ((∃ v, t.reply = .word v) ∨ ∃ b, t.reply = .byte b)

/-! ### The checksum commands -/

/-- R111: CK_CLR is word 0x00000001; it clears ACC, so that CK_RESULT reads 0x0000FFFF, and changes nothing else but STATUS. -/
def Obligations.CkClrClearsTheAccumulator : Prop :=
  ∀ s : State, encode .ckClr = 0x00000001#32 ∧
    ∃ t, exec .ckClr s = .next t ∧ t.acc = 0x0000#16 ∧ t.readReg .ckResult = 0x0000FFFF#32 ∧
      StatusOk s t false ∧ t = { s with acc := t.acc, status := t.status } ∧
      ∀ i, t.bufByte i = s.bufByte i

/-- R112: CK_ADD16 is word 0x00000002; ACC gets the sum with DATA[15:0] with the carry out of bit 15 added back, and nothing
else changes but STATUS. -/
def Obligations.CkAdd16AddsTheDataWord : Prop :=
  ∀ s : State, encode .ckAdd16 = 0x00000002#32 ∧
    ∃ t, exec .ckAdd16 s = .next t ∧
      (let sum := s.acc.toNat + s.data.toNat % 65536
       t.acc.toNat = sum % 65536 + sum / 65536) ∧
      StatusOk s t false ∧ t = { s with acc := t.acc, status := t.status } ∧
      ∀ i, t.bufByte i = s.bufByte i

/-- R113: CK_ADD8H is word 0x00000003; ACC gets the sum with DATA[7:0] as a high byte with the carry out of bit 15 added back,
and nothing else changes but STATUS. -/
def Obligations.CkAdd8hAddsAHighByte : Prop :=
  ∀ s : State, encode .ckAdd8h = 0x00000003#32 ∧
    ∃ t, exec .ckAdd8h s = .next t ∧
      (let sum := s.acc.toNat + s.data.toNat % 256 * 256
       t.acc.toNat = sum % 65536 + sum / 65536) ∧
      StatusOk s t false ∧ t = { s with acc := t.acc, status := t.status } ∧
      ∀ i, t.bufByte i = s.bufByte i

/-- R114: CK_BUF is word 0x00000004. With FRAME_LEN ≤ BUF_SIZE it adds the sum of the first FRAME_LEN bytes to ACC (nothing for
length 0), which is what adding each of its words with CK_ADD16, and an odd last byte with CK_ADD8H, leaves there; over bytes
that verify a zero ACC becomes 0xFFFF. Otherwise it raises E_OVERSIZE and changes only STATUS. -/
def Obligations.CkBufAddsTheBuffer : Prop :=
  ∀ s : State, encode .ckBuf = 0x00000004#32 ∧
    (s.frameLen.toNat ≤ s.params.bufSize.toNat →
      ∃ t, exec .ckBuf s = .next t ∧ t.acc = onesAdd s.acc (onesSum (s.words 0 s.frameLen.toNat)) ∧
        (s.frameLen.toNat = 0 → t.acc = s.acc) ∧
        t.acc = (streamBuffer s s.frameLen.toNat).acc ∧
        (s.acc = 0x0000#16 → s.Verifies s.frameLen.toNat → t.acc = 0xFFFF#16 ∧ t.readReg .ckResult = 0#32) ∧
        StatusOk s t false ∧ t = { s with acc := t.acc, status := t.status } ∧
        ∀ i, t.bufByte i = s.bufByte i) ∧
    (s.params.bufSize.toNat < s.frameLen.toNat →
      ∃ t, exec .ckBuf s = .next t ∧ StatusError s t 4#4 [28, 31] ∧ t = { s with status := t.status })

/-- R107, R114 (corner case): a byte sequence verifies exactly when CK_CLR and CK_BUF over it leave 0xFFFF in ACC, and then
CK_RESULT reads 0. -/
def Obligations.ClearAndSumShowVerification : Prop :=
  ∀ s : State, s.frameLen.toNat ≤ s.params.bufSize.toNat →
    ∃ t u, exec .ckClr s = .next t ∧ exec .ckBuf t = .next u ∧
      (s.Verifies s.frameLen.toNat ↔ u.acc = 0xFFFF#16) ∧
      (s.Verifies s.frameLen.toNat ↔ u.readReg .ckResult = 0#32) ∧
      (s.Verifies s.frameLen.toNat ↔ s.cksum s.frameLen.toNat = 0x0000#16)

/-! ### One's-complement arithmetic and the word view -/

/-- R108: the laws of `ones_add`. -/
def Obligations.OnesAddLaws : Prop :=
  ∀ a b c : Half,
    onesAdd a b = onesAdd b a ∧ onesAdd (onesAdd a b) c = onesAdd a (onesAdd b c) ∧
    onesAdd a 0x0000#16 = a ∧ (a ≠ 0x0000#16 → onesAdd a 0xFFFF#16 = a) ∧ onesAdd 0x0000#16 0xFFFF#16 = 0xFFFF#16 ∧
    onesAdd a (~~~ a) = 0xFFFF#16

/-- R103: the closed form of `ones_sum`, and its consequences: zero only for zero words, else the one value in 0x0001 to
0xFFFF congruent to the exact sum modulo 65535; independent of the order, additive over
a split of the list; a step of the accumulator gives zero only from zeros. -/
def Obligations.OnesSumClosedForm : Prop :=
  (∀ ws : List Half,
    (onesSum ws).toNat = (if exactSum ws = 0 then 0 else 1 + (exactSum ws - 1) % 0xFFFF) ∧
    (onesSum ws = 0x0000#16 ↔ ∀ w ∈ ws, w = 0x0000#16) ∧
    (exactSum ws ≠ 0 → ∀ v, 1 ≤ v → v ≤ 0xFFFF → (v % 0xFFFF = exactSum ws % 0xFFFF ↔ v = (onesSum ws).toNat))) ∧
  (∀ us vs : List Half, us.Perm vs → onesSum us = onesSum vs) ∧
  (∀ us vs : List Half, onesSum (us ++ vs) = onesAdd (onesSum us) (onesSum vs)) ∧
  ∀ a w : Half, onesAdd a w = 0x0000#16 ↔ a = 0x0000#16 ∧ w = 0x0000#16

/-- R102: the source's fold of the exact sum gives the same result, and it ends within 16 bits. -/
def Obligations.FoldEqualsOnesSum : Prop :=
  ∀ ws : List Half, foldCarries (exactSum ws) = (onesSum ws).toNat ∧ foldCarries (exactSum ws) ≤ 0xFFFF

/-- R104, R105: the word view of L bytes has ⌈L/2⌉ words; word k pairs bytes 2k and 2k+1 in BYTE_ORDER, and an odd last byte is
the high byte of the last word in both orders. -/
def Obligations.WordViewOfTheBuffer : Prop :=
  ∀ (s : State) (i n : Nat),
    (s.words i n).length = (n + 1) / 2 ∧
    (∀ k, k < n / 2 → (s.words i n)[k]? =
      some (if s.params.byteOrder = .be then s.bufByte (i + 2 * k) ++ s.bufByte (i + 2 * k + 1)
        else s.bufByte (i + 2 * k + 1) ++ s.bufByte (i + 2 * k))) ∧
    (n % 2 = 1 → (s.words i n)[n / 2]? = some (s.bufByte (i + n - 1) ++ 0x00#8))

/-- R106: the checksum is the complement of the sum; `cksum(0)` = 0xFFFF, and 0xFFFF occurs only when every byte is zero. -/
def Obligations.ChecksumIsTheComplement : Prop :=
  ∀ (s : State) (n : Nat),
    s.cksum n = ~~~ onesSum (s.words 0 n) ∧ s.cksum 0 = 0xFFFF#16 ∧
    (s.cksum n = 0xFFFF#16 ↔ ∀ k, k < n → s.bufByte k = 0#8)

/-- R109: for an even number of bytes the LE sum is the byte-swapped BE sum, so both orders store the same two checksum bytes;
for an odd number it can fail. -/
def Obligations.LittleEndianSumIsTheSwappedSum : Prop :=
  (∀ bs : List Byte, bs.length % 2 = 0 →
    onesSum (wordView .le bs) = swap16 (onesSum (wordView .be bs)) ∧
    ∀ (s t : State) (k : Nat), s.params.byteOrder = .be → t.params.byteOrder = .le → (k = 12 ∨ k = 13) →
      (s.memWrite 12 2 (~~~ onesSum (wordView .be bs)).toNat).bufByte k =
        (t.memWrite 12 2 (~~~ onesSum (wordView .le bs)).toNat).bufByte k) ∧
  ∃ bs : List Byte, bs.length % 2 = 1 ∧ onesSum (wordView .le bs) ≠ swap16 (onesSum (wordView .be bs))

/-- R110: flipping one bit of a byte sequence that verifies gives one that does not; the sum does not see two words exchanged,
nor 0x0000 and 0xFFFF put for each other while the sum with 0x0000 is not zero. -/
def Obligations.SumSeesEverySingleBitFlip : Prop :=
  (∀ (s : State) (n k j : Nat), k < n → j < 8 → s.Verifies n → ¬ (s.flipBit k j).Verifies n) ∧
  (∀ (us vs xs : List Half) (a b : Half),
    onesSum (us ++ a :: vs ++ b :: xs) = onesSum (us ++ b :: vs ++ a :: xs)) ∧
  ∀ us vs : List Half, onesSum (us ++ 0x0000#16 :: vs) ≠ 0x0000#16 →
    onesSum (us ++ 0xFFFF#16 :: vs) = onesSum (us ++ 0x0000#16 :: vs)

/-! ### The framer -/

/-- R130: MemRead and MemWrite of 2 and 4 bytes, byte by byte, in both orders; no other byte is written. -/
def Obligations.FieldAccessFollowsTheByteOrder : Prop :=
  ∀ (s : State) (i v : Nat),
    (s.params.byteOrder = .be →
      s.memRead i 4 = ((s.bufByte i).toNat <<< 24) + ((s.bufByte (i + 1)).toNat <<< 16) +
        ((s.bufByte (i + 2)).toNat <<< 8) + (s.bufByte (i + 3)).toNat ∧
      s.memRead i 2 = ((s.bufByte i).toNat <<< 8) + (s.bufByte (i + 1)).toNat ∧
      (∀ k, k < 4 → ((s.memWrite i 4 v).bufByte (i + k)).toNat = (v >>> (8 * (3 - k))) % 256) ∧
      ∀ k, k < 2 → ((s.memWrite i 2 v).bufByte (i + k)).toNat = (v >>> (8 * (1 - k))) % 256) ∧
    (s.params.byteOrder = .le →
      s.memRead i 4 = (s.bufByte i).toNat + ((s.bufByte (i + 1)).toNat <<< 8) +
        ((s.bufByte (i + 2)).toNat <<< 16) + ((s.bufByte (i + 3)).toNat <<< 24) ∧
      s.memRead i 2 = (s.bufByte i).toNat + ((s.bufByte (i + 1)).toNat <<< 8) ∧
      (∀ k, k < 4 → ((s.memWrite i 4 v).bufByte (i + k)).toNat = (v >>> (8 * k)) % 256) ∧
      ∀ k, k < 2 → ((s.memWrite i 2 v).bufByte (i + k)).toNat = (v >>> (8 * k)) % 256) ∧
    (∀ n j, n = 2 ∨ n = 4 → j < i ∨ i + n ≤ j → (s.memWrite i n v).bufByte j = s.bufByte j) ∧
    ∀ n, n = 2 ∨ n = 4 → (s.memWrite i n v).memRead i n = v % 2 ^ (8 * n)

/-- R135: FR_ENCODE is word 0x00000010. With 14 + N ≤ BUF_SIZE it stamps SIGNATURE, HDR_CMDSTAT, N and the complement of the sum
taken with the checksum field zero, sets FRAME_LEN, HDR_CKSUM and ACC, and leaves every byte from 14 up and everything else
but STATUS alone; the checksum is 0xFFFF only when all 14 + N bytes summed are zero, which needs SIGNATURE = 0. Otherwise it
raises E_OVERSIZE and changes only STATUS. -/
def Obligations.FrEncodeStampsTheFrame : Prop :=
  ∀ s : State, encode .frEncode = 0x00000010#32 ∧
    (14 + s.hdrPlen.toNat ≤ s.params.bufSize.toNat →
      ∃ t sum, exec .frEncode s = .next t ∧
        t.field32 0 = s.params.signature ∧ t.field32 4 = s.hdrCmdstat ∧ t.field32 8 = s.hdrPlen ∧
        t.field16 12 = ~~~ sum ∧
        sum = onesSum (wordView s.params.byteOrder
          (((t.bufBytes 0 (14 + s.hdrPlen.toNat)).set 12 0x00#8).set 13 0x00#8)) ∧
        t.frameLen.toNat = 14 + s.hdrPlen.toNat ∧ t.hdrCksum = ~~~ sum ∧ t.acc = sum ∧
        StatusOk s t false ∧
        (∀ k, 14 ≤ k → t.bufByte k = s.bufByte k) ∧
        t = { s with
          pktBuf := t.pktBuf, frameLen := t.frameLen, hdrCksum := t.hdrCksum, acc := t.acc, status := t.status } ∧
        (t.hdrCksum = 0xFFFF#16 →
          s.params.signature = 0#32 ∧ ∀ k, k < 14 + s.hdrPlen.toNat → k ≠ 12 → k ≠ 13 → t.bufByte k = 0#8)) ∧
    (s.params.bufSize.toNat < 14 + s.hdrPlen.toNat →
      ∃ t, exec .frEncode s = .next t ∧ StatusError s t 4#4 [28, 31] ∧ t = { s with status := t.status })

/-- R137: a frame produced by a successful FR_ENCODE verifies. -/
def Obligations.EncodedFrameVerifies : Prop :=
  ∀ s : State, 14 + s.hdrPlen.toNat ≤ s.params.bufSize.toNat →
    ∃ t, exec .frEncode s = .next t ∧ t.Verifies (14 + s.hdrPlen.toNat)

/-- R140, R141, R176: FR_DECODE is word 0x00000011 and reports the first check that fails: E_LEN below 4 bytes, E_SIG, E_LEN,
E_CKSUM, else OK. What each verdict writes is all that changes; no verdict writes PKT_BUF or FRAME_LEN. -/
def Obligations.FrDecodeReportsTheFirstFailingCheck : Prop :=
  ∀ s : State, encode .frDecode = 0x00000011#32 ∧
    ∃ t, exec .frDecode s = .next t ∧ (∀ i, t.bufByte i = s.bufByte i) ∧
      (if s.frameLen.toNat < 4 then
        StatusError s t 2#4 [] ∧ t = { s with status := t.status }
      else if s.field32 0 ≠ s.params.signature then
        StatusError s t 1#4 [] ∧ t = { s with status := t.status }
      else if s.frameLen.toNat < 14 ∨ s.frameLen.toNat ≠ 14 + (s.field32 8).toNat ∨
          s.params.bufSize.toNat < s.frameLen.toNat then
        StatusError s t 2#4 [] ∧ t = { s with status := t.status }
      else if onesSum (s.words 0 s.frameLen.toNat) ≠ 0xFFFF#16 then
        StatusError s t 3#4 [] ∧
        t = { s with status := t.status, acc := onesSum (s.words 0 s.frameLen.toNat) }
      else
        StatusOk s t true ∧
        t.hdrCmdstat = s.field32 4 ∧ t.hdrPlen = s.field32 8 ∧ t.hdrCksum = s.field16 12 ∧
        t = { s with
          status := t.status, acc := 0xFFFF#16, hdrCmdstat := t.hdrCmdstat, hdrPlen := t.hdrPlen, hdrCksum := t.hdrCksum })

/-- R132, R133, R134, R140: FR_DECODE accepts exactly the frames that pass the three checks, and then exports the frame's own
fields with VALID = 1. -/
def Obligations.FrDecodeAcceptsExactlyTheCheckedFrames : Prop :=
  ∀ s : State, ∃ t, exec .frDecode s = .next t ∧
    (statusResult t.status = 0#4 ↔
      s.SigCheck s.frameLen.toNat ∧ s.LenCheck s.frameLen.toNat ∧ s.CksumCheck s.frameLen.toNat) ∧
    (statusValid t.status = true ↔ statusResult t.status = 0#4) ∧
    (statusResult t.status = 0#4 →
      t.hdrCmdstat = s.field32 4 ∧ t.hdrPlen.toNat + 14 = s.frameLen.toNat ∧ t.hdrCksum = s.field16 12 ∧
      t.acc = 0xFFFF#16)

/-- R142: a frame that fails any check exports no field and leaves VALID 0; its buffer and length are untouched. -/
def Obligations.FailedDecodeExportsNothing : Prop :=
  ∀ s : State,
    ¬ (s.SigCheck s.frameLen.toNat ∧ s.LenCheck s.frameLen.toNat ∧ s.CksumCheck s.frameLen.toNat) →
    ∃ t, exec .frDecode s = .next t ∧ statusResult t.status ≠ 0#4 ∧ statusValid t.status = false ∧
      t = { s with status := t.status, acc := t.acc } ∧
      (statusResult t.status ≠ 3#4 → t.acc = s.acc)

/-- R144: with L ≥ 4 and a wrong signature FR_DECODE reports E_SIG, whatever else the frame holds. -/
def Obligations.WrongSignatureIsRejected : Prop :=
  ∀ s : State, 4 ≤ s.frameLen.toNat → s.field32 0 ≠ s.params.signature →
    ∃ t, exec .frDecode s = .next t ∧ statusResult t.status = 1#4

/-- R143: encode, then decode with nothing between: OK, VALID = 1, the same command_or_status, N and payload. -/
def Obligations.EncodeThenDecodeRoundTrip : Prop :=
  ∀ s : State, 14 + s.hdrPlen.toNat ≤ s.params.bufSize.toNat →
    ∃ t u, exec .frEncode s = .next t ∧ exec .frDecode t = .next u ∧
      StatusOk s u true ∧ u.hdrCmdstat = s.hdrCmdstat ∧ u.hdrPlen = s.hdrPlen ∧
      ∀ k, 14 ≤ k → u.bufByte k = s.bufByte k

/-- R145: an encoded frame with any other FRAME_LEN is reported E_LEN. -/
def Obligations.LengthMismatchIsRejected : Prop :=
  ∀ (s : State) (len : Word), 14 + s.hdrPlen.toNat ≤ s.params.bufSize.toNat →
    ∃ t, exec .frEncode s = .next t ∧
      (len ≠ t.frameLen →
        ∃ u, exec .frDecode { t with frameLen := len } = .next u ∧ statusResult u.status = 2#4)

/-- R146: one bit of an encoded frame flipped: E_SIG in bytes 0 to 3, E_LEN in bytes 8 to 11, E_CKSUM everywhere else. -/
def Obligations.SingleBitFlipIsRejected : Prop :=
  ∀ (s : State) (k j : Nat), 14 + s.hdrPlen.toNat ≤ s.params.bufSize.toNat →
    k < 14 + s.hdrPlen.toNat → j < 8 →
    ∃ t u, exec .frEncode s = .next t ∧ exec .frDecode (t.flipBit k j) = .next u ∧
      statusResult u.status = (if k < 4 then 1#4 else if 8 ≤ k ∧ k < 12 then 2#4 else 3#4)

/-- R147: where the sum over the zeroed field is 0xFFFF the encoder stores 0x0000, and the frame with 0xFFFF in its place is
accepted too and reads HDR_CKSUM = 0xFFFF. -/
def Obligations.ChecksumAliasIsAccepted : Prop :=
  ∀ s t : State, 14 + s.hdrPlen.toNat ≤ s.params.bufSize.toNat → exec .frEncode s = .next t → t.acc = 0xFFFF#16 →
    t.field16 12 = 0x0000#16 ∧
    ∃ u, exec .frDecode (t.memWrite 12 2 0xFFFF) = .next u ∧ StatusOk s u true ∧ u.hdrCksum = 0xFFFF#16

/-- R114, R135, R140: a command's results depend on no byte of the buffer but those it sums, and on no unspecified byte outside
them: CK_BUF on bytes below FRAME_LEN, FR_DECODE on bytes below min(FRAME_LEN, BUF_SIZE), FR_ENCODE on its payload. -/
def Obligations.CommandsReadOnlyTheirBytes : Prop :=
  ∀ s s' : State,
    (SameButBuffer 0 s.frameLen.toNat s s' →
      ∃ t, exec .ckBuf s = .next t ∧
        exec .ckBuf s' = .next { t with pktBuf := s'.pktBuf, launch := s'.launch }) ∧
    (s.params.wf → SameButBuffer 0 (min s.frameLen.toNat s.params.bufSize.toNat) s s' →
      ∃ t, exec .frDecode s = .next t ∧
        exec .frDecode s' = .next { t with pktBuf := s'.pktBuf, launch := s'.launch }) ∧
    (14 + s.hdrPlen.toNat ≤ s.params.bufSize.toNat → SameButBuffer 14 (14 + s.hdrPlen.toNat) s s' →
      ∃ t t', exec .frEncode s = .next t ∧ exec .frEncode s' = .next t' ∧
        SameButBuffer 0 (14 + s.hdrPlen.toNat) t t')

/-! ### STATUS, reset and the whole machine -/

/-- R25: VALID is written by every command, 1 exactly for an FR_DECODE whose checks all pass; no other host access writes it. -/
def Obligations.ValidFollowsTheLastCommand : Prop :=
  ∀ (s : State) (a : Access) (rest : List Input), ∃ t, step (s.facing a rest) = .next t ∧
    (∀ w, a = .regWrite 32 0x00#8 w →
      (statusValid t.status = true ↔ w = 0x00000011#32 ∧
        s.SigCheck s.frameLen.toNat ∧ s.LenCheck s.frameLen.toNat ∧ s.CksumCheck s.frameLen.toNat)) ∧
    ((∀ w, a ≠ .regWrite 32 0x00#8 w) → statusValid t.status = statusValid s.status)

/-- R26: the sticky bits are cleared by no host access; FAULT is set in the same step as any of bits 30:28; the integrity checks
set none of them; a set FAULT stops no access. -/
def Obligations.StickyBitsStayUntilReset : Prop :=
  ∀ (s : State) (a : Access) (rest : List Input),
    (∃ t, step (s.facing a rest) = .next t ∧
      (∀ k, 28 ≤ k → k < 32 → s.status.getLsbD k = true → t.status.getLsbD k = true) ∧
      (∀ k, 28 ≤ k → k < 31 → s.status.getLsbD k = false → t.status.getLsbD k = true →
        statusFault t.status = true)) ∧
    ∃ t, exec .frDecode s = .next t ∧ statusSticky t.status = statusSticky s.status

/-- R26: while FAULT is set, commands and accesses behave as they do without it: two states that differ in the sticky bits alone
step to states that differ in the sticky bits alone, and the host is answered the same unless it reads STATUS. -/
def Obligations.StickyBitsChangeNoBehaviour : Prop :=
  ∀ (s t : State) (st : Word), (∀ k, k < 28 → st.getLsbD k = s.status.getLsbD k) → step s = .next t →
    ∃ t', step { s with status := st } = .next t' ∧
      t' = { t with status := t'.status, reply := t'.reply } ∧
      (∀ k, k < 28 → t'.status.getLsbD k = t.status.getLsbD k) ∧
      (s.inputs.head? ≠ some (.access (.regRead 32 0x04#8)) → t'.reply = t.reply)

/-- R173: with no reset among them, steps that end without FAULT never had it: the premise "FAULT = 0 at the end" rules out a fault
at any step of the run. -/
def Obligations.NoFaultAtTheEndMeansNoFaultBefore : Prop :=
  ∀ (n : Nat) (s t : State), run n s = .next t → Input.reset ∉ s.inputs.take n →
    ¬ t.Faulted →
    ∀ k, k ≤ n → ∃ u : State, run k s = .next u ∧ ¬ u.Faulted

/-- R41: the values R41 gives the registers, right after reset. -/
def Obligations.ResetStateHasTheResetValues : Prop :=
  State.reset.status = 0x00000000#32 ∧ State.reset.data = 0x00000000#32 ∧ State.reset.acc = 0x0000#16 ∧
  State.reset.readReg .ckResult = 0x0000FFFF#32 ∧ State.reset.frameLen = 0x00000000#32 ∧
  State.reset.hdrCmdstat = 0x00000000#32 ∧ State.reset.hdrPlen = 0x00000000#32 ∧ State.reset.hdrCksum = 0x0000#16

/-- R41, R200: the reset input puts every register at its reset value, whatever the state, clears the sticky bits, and leaves the
constants alone; no other input clears a sticky bit. -/
def Obligations.ResetInputRestoresTheResetValues : Prop :=
  (∀ (s : State) (rest : List Input), ∃ t, step { s with inputs := .reset :: rest } = .next t ∧
    t.status = 0x00000000#32 ∧ t.data = 0x00000000#32 ∧ t.acc = 0x0000#16 ∧ t.readReg .ckResult = 0x0000FFFF#32 ∧
    t.frameLen = 0x00000000#32 ∧ t.hdrCmdstat = 0x00000000#32 ∧ t.hdrPlen = 0x00000000#32 ∧ t.hdrCksum = 0x0000#16 ∧
    t.params = s.params) ∧
  ∀ (s t : State) (k : Nat), step s = .next t → 28 ≤ k → s.status.getLsbD k = true → t.status.getLsbD k = false →
    s.inputs.head? = some .reset

/-- R200: unspecified bytes are not carried over a reset: after it every byte is the free value of the new launch, so nothing the
buffer held before can be concluded about it (log entries 4 and 5). -/
def Obligations.ResetLeavesTheBufferUnspecified : Prop :=
  ∀ (s : State) (rest : List Input), ∃ t, step { s with inputs := .reset :: rest } = .next t ∧
    ∀ i, t.bufByte i = Config.initialByte (s.launch + 1) i

/-- R5, R24, R20: the invariant holds right after reset. -/
def Obligations.ResetMeetsTheInvariant : Prop := State.reset.Inv

/-- R5, R24, R20: from every state that meets it, every step keeps the invariant: BUF_SIZE in range, RESULT at most 5, VALID only
with OK, the reserved bits 0, FAULT the OR of bits 30:28, the buffer canonical and inside its size. -/
def Obligations.StepKeepsTheInvariant : Prop :=
  ∀ s t : State, s.Inv → step s = .next t → t.Inv

/-- R30: no command writes DATA; CK_ADD16 depends on DATA[15:0] alone, CK_ADD8H on DATA[7:0] alone, and no other command on any
bit of it; a host read returns the last value the host wrote. -/
def Obligations.DataIsOnlyAnOperand : Prop :=
  (∀ (s : State) (i : Instr) (d : Word),
    (i = .ckAdd16 → d.toNat % 65536 = s.data.toNat % 65536) → (i = .ckAdd8h → d.toNat % 256 = s.data.toNat % 256) →
    ∃ t, exec i s = .next t ∧ t.data = s.data ∧ exec i { s with data := d } = .next { t with data := d }) ∧
  ∀ (s : State) (v : Word) (rest : List Input), ∃ t u,
    step (s.facing (.regWrite 32 0x08#8 v) (.access (.regRead 32 0x08#8) :: rest)) = .next t ∧ step t = .next u ∧
    u.reply = .word v

/-- R24, R30, R31, R33, R34, R35, R36, R52: the only host accesses that write each register and the buffer; every other access
leaves it alone, and none writes the constants SIG, BUFSZ and CONFIG (R37, R38, R39). STATUS is written by a write to CMD (a
command, or an illegal word's E_BADCMD) and by a bus error. A command is named by its word written to CMD (offset 0x00). -/
def Obligations.OnlyTheirWritersWrite : Prop :=
  ∀ (s t : State) (a : Access) (rest : List Input), step (s.facing a rest) = .next t →
    (t.status ≠ s.status → (∃ w, a = .regWrite 32 0x00#8 w) ∨ IsBusError s a) ∧
    t.params = s.params ∧
    (t.pktBuf ≠ s.pktBuf → (∃ i b, a = .bufWrite 8 i b) ∨ a = .regWrite 32 0x00#8 0x00000010#32) ∧
    (t.data ≠ s.data → ∃ v, a = .regWrite 32 0x08#8 v) ∧
    (t.acc ≠ s.acc → ∃ w i, a = .regWrite 32 0x00#8 w ∧ (w, i) ∈ opcodeMap) ∧
    (t.frameLen ≠ s.frameLen → (∃ v, a = .regWrite 32 0x14#8 v) ∨ a = .regWrite 32 0x00#8 0x00000010#32) ∧
    (t.hdrCmdstat ≠ s.hdrCmdstat → (∃ v, a = .regWrite 32 0x18#8 v) ∨ a = .regWrite 32 0x00#8 0x00000011#32) ∧
    (t.hdrPlen ≠ s.hdrPlen → (∃ v, a = .regWrite 32 0x1C#8 v) ∨ a = .regWrite 32 0x00#8 0x00000011#32) ∧
    (t.hdrCksum ≠ s.hdrCksum → a = .regWrite 32 0x00#8 0x00000010#32 ∨ a = .regWrite 32 0x00#8 0x00000011#32)

/-- The model's own choice (log entry 4): canonical buffers with the same written bytes are equal data. -/
def Obligations.EqualBuffersAreEqualData : Prop :=
  ∀ (n : Nat) (m m' : List Host.Cell), Memory.wf n m → Memory.wf n m' →
    (∀ i, Memory.get? m i = Memory.get? m' i) → m = m'

/-! ### Host programs -/

/-- R82: `ADDW <v16>` and `ADDB <v8>` take two steps and add the word, or the byte as a high byte, to ACC. -/
def Obligations.PseudoInstructionsAddTheirOperand : Prop :=
  ∀ (s : State) (rest : List Input) (v : Half) (b : Byte),
    (∃ t : State, run 2 { s with inputs := hostProgram [.addw v] ++ rest } = .next t ∧
      t.acc = onesAdd s.acc v ∧ t.data = v.setWidth 32 ∧ t.inputs = rest) ∧
    ∃ t : State, run 2 { s with inputs := hostProgram [.addb b] ++ rest } = .next t ∧
      t.acc = onesAdd s.acc (b ++ 0x00#8) ∧ t.data = b.setWidth 32 ∧ t.inputs = rest

/-- R58: a datagram of D bytes received by the host leaves its first min(D, BUF_SIZE) bytes in the buffer and D in FRAME_LEN, with
nothing else of the block changed, even when D is greater than BUF_SIZE. -/
def Obligations.ReceivedDatagramIsStored : Prop :=
  ∀ (s : State) (bytes : List Byte) (rest : List Input), bytes.length < 2 ^ 32 →
    ∃ t : State,
      run (min bytes.length s.params.bufSize.toNat + 1)
        { s with inputs := (receiveDatagram s.params.bufSize bytes).map .access ++ rest } = .next t ∧
      t.frameLen.toNat = bytes.length ∧
      (∀ k, k < min bytes.length s.params.bufSize.toNat → some (t.bufByte k) = bytes[k]?) ∧
      (∀ k, min bytes.length s.params.bufSize.toNat ≤ k → t.bufByte k = s.bufByte k) ∧
      t = { s with inputs := rest, reply := .none, frameLen := t.frameLen, pktBuf := t.pktBuf }
end

