-- ==== Sys2Proof/Laws/State.lean ====
section
/-! SUPPORT. One lemma per field and state update, so that no proof unfolds a record update. -/

namespace Sys2Proof.Machine

/-! ### putByte -/

@[simp] theorem State.putByte_params (s : State) (i : Nat) (b : Byte) : (s.putByte i b).params = s.params := rfl
@[simp] theorem State.putByte_status (s : State) (i : Nat) (b : Byte) : (s.putByte i b).status = s.status := rfl
@[simp] theorem State.putByte_data (s : State) (i : Nat) (b : Byte) : (s.putByte i b).data = s.data := rfl
@[simp] theorem State.putByte_acc (s : State) (i : Nat) (b : Byte) : (s.putByte i b).acc = s.acc := rfl
@[simp] theorem State.putByte_frameLen (s : State) (i : Nat) (b : Byte) : (s.putByte i b).frameLen = s.frameLen := rfl
@[simp] theorem State.putByte_hdrCmdstat (s : State) (i : Nat) (b : Byte) : (s.putByte i b).hdrCmdstat = s.hdrCmdstat := rfl
@[simp] theorem State.putByte_hdrPlen (s : State) (i : Nat) (b : Byte) : (s.putByte i b).hdrPlen = s.hdrPlen := rfl
@[simp] theorem State.putByte_hdrCksum (s : State) (i : Nat) (b : Byte) : (s.putByte i b).hdrCksum = s.hdrCksum := rfl
@[simp] theorem State.putByte_pktBuf (s : State) (i : Nat) (b : Byte) : (s.putByte i b).pktBuf = Memory.put s.pktBuf i b := rfl
@[simp] theorem State.putByte_launch (s : State) (i : Nat) (b : Byte) : (s.putByte i b).launch = s.launch := rfl
@[simp] theorem State.putByte_inputs (s : State) (i : Nat) (b : Byte) : (s.putByte i b).inputs = s.inputs := rfl
@[simp] theorem State.putByte_reply (s : State) (i : Nat) (b : Byte) : (s.putByte i b).reply = s.reply := rfl

/-! ### clearValid -/

@[simp] theorem State.clearValid_params (s : State) : (s.clearValid).params = s.params := rfl
@[simp] theorem State.clearValid_status (s : State) : (s.clearValid).status = setValid false s.status := rfl
@[simp] theorem State.clearValid_data (s : State) : (s.clearValid).data = s.data := rfl
@[simp] theorem State.clearValid_acc (s : State) : (s.clearValid).acc = s.acc := rfl
@[simp] theorem State.clearValid_frameLen (s : State) : (s.clearValid).frameLen = s.frameLen := rfl
@[simp] theorem State.clearValid_hdrCmdstat (s : State) : (s.clearValid).hdrCmdstat = s.hdrCmdstat := rfl
@[simp] theorem State.clearValid_hdrPlen (s : State) : (s.clearValid).hdrPlen = s.hdrPlen := rfl
@[simp] theorem State.clearValid_hdrCksum (s : State) : (s.clearValid).hdrCksum = s.hdrCksum := rfl
@[simp] theorem State.clearValid_pktBuf (s : State) : (s.clearValid).pktBuf = s.pktBuf := rfl
@[simp] theorem State.clearValid_launch (s : State) : (s.clearValid).launch = s.launch := rfl
@[simp] theorem State.clearValid_inputs (s : State) : (s.clearValid).inputs = s.inputs := rfl
@[simp] theorem State.clearValid_reply (s : State) : (s.clearValid).reply = s.reply := rfl

/-! ### complete -/

@[simp] theorem State.complete_params (s : State) (v : Bool) : (s.complete v).params = s.params := rfl
@[simp] theorem State.complete_status (s : State) (v : Bool) : (s.complete v).status = setValid v (setResult .ok s.status) := rfl
@[simp] theorem State.complete_data (s : State) (v : Bool) : (s.complete v).data = s.data := rfl
@[simp] theorem State.complete_acc (s : State) (v : Bool) : (s.complete v).acc = s.acc := rfl
@[simp] theorem State.complete_frameLen (s : State) (v : Bool) : (s.complete v).frameLen = s.frameLen := rfl
@[simp] theorem State.complete_hdrCmdstat (s : State) (v : Bool) : (s.complete v).hdrCmdstat = s.hdrCmdstat := rfl
@[simp] theorem State.complete_hdrPlen (s : State) (v : Bool) : (s.complete v).hdrPlen = s.hdrPlen := rfl
@[simp] theorem State.complete_hdrCksum (s : State) (v : Bool) : (s.complete v).hdrCksum = s.hdrCksum := rfl
@[simp] theorem State.complete_pktBuf (s : State) (v : Bool) : (s.complete v).pktBuf = s.pktBuf := rfl
@[simp] theorem State.complete_launch (s : State) (v : Bool) : (s.complete v).launch = s.launch := rfl
@[simp] theorem State.complete_inputs (s : State) (v : Bool) : (s.complete v).inputs = s.inputs := rfl
@[simp] theorem State.complete_reply (s : State) (v : Bool) : (s.complete v).reply = s.reply := rfl

/-! ### raise -/

@[simp] theorem State.raise_params (s : State) (e : ResultCode) : (s.raise e).params = s.params := rfl
@[simp] theorem State.raise_status (s : State) (e : ResultCode) : (s.raise e).status = setStickyOf e (setResult e s.status) := rfl
@[simp] theorem State.raise_data (s : State) (e : ResultCode) : (s.raise e).data = s.data := rfl
@[simp] theorem State.raise_acc (s : State) (e : ResultCode) : (s.raise e).acc = s.acc := rfl
@[simp] theorem State.raise_frameLen (s : State) (e : ResultCode) : (s.raise e).frameLen = s.frameLen := rfl
@[simp] theorem State.raise_hdrCmdstat (s : State) (e : ResultCode) : (s.raise e).hdrCmdstat = s.hdrCmdstat := rfl
@[simp] theorem State.raise_hdrPlen (s : State) (e : ResultCode) : (s.raise e).hdrPlen = s.hdrPlen := rfl
@[simp] theorem State.raise_hdrCksum (s : State) (e : ResultCode) : (s.raise e).hdrCksum = s.hdrCksum := rfl
@[simp] theorem State.raise_pktBuf (s : State) (e : ResultCode) : (s.raise e).pktBuf = s.pktBuf := rfl
@[simp] theorem State.raise_launch (s : State) (e : ResultCode) : (s.raise e).launch = s.launch := rfl
@[simp] theorem State.raise_inputs (s : State) (e : ResultCode) : (s.raise e).inputs = s.inputs := rfl
@[simp] theorem State.raise_reply (s : State) (e : ResultCode) : (s.raise e).reply = s.reply := rfl

/-! ### busError -/

@[simp] theorem State.busError_params (s : State) : (s.busError).params = s.params := rfl
@[simp] theorem State.busError_status (s : State) : (s.busError).status = setFBus s.status := rfl
@[simp] theorem State.busError_data (s : State) : (s.busError).data = s.data := rfl
@[simp] theorem State.busError_acc (s : State) : (s.busError).acc = s.acc := rfl
@[simp] theorem State.busError_frameLen (s : State) : (s.busError).frameLen = s.frameLen := rfl
@[simp] theorem State.busError_hdrCmdstat (s : State) : (s.busError).hdrCmdstat = s.hdrCmdstat := rfl
@[simp] theorem State.busError_hdrPlen (s : State) : (s.busError).hdrPlen = s.hdrPlen := rfl
@[simp] theorem State.busError_hdrCksum (s : State) : (s.busError).hdrCksum = s.hdrCksum := rfl
@[simp] theorem State.busError_pktBuf (s : State) : (s.busError).pktBuf = s.pktBuf := rfl
@[simp] theorem State.busError_launch (s : State) : (s.busError).launch = s.launch := rfl
@[simp] theorem State.busError_inputs (s : State) : (s.busError).inputs = s.inputs := rfl
@[simp] theorem State.busError_reply (s : State) : (s.busError).reply = s.reply := rfl

/-! ### setAccOk -/

@[simp] theorem State.setAccOk_params (s : State) (v : Half) : (s.setAccOk v).params = s.params := rfl
@[simp] theorem State.setAccOk_status (s : State) (v : Half) : (s.setAccOk v).status = setValid false (setResult .ok s.status) := rfl
@[simp] theorem State.setAccOk_data (s : State) (v : Half) : (s.setAccOk v).data = s.data := rfl
@[simp] theorem State.setAccOk_acc (s : State) (v : Half) : (s.setAccOk v).acc = v := rfl
@[simp] theorem State.setAccOk_frameLen (s : State) (v : Half) : (s.setAccOk v).frameLen = s.frameLen := rfl
@[simp] theorem State.setAccOk_hdrCmdstat (s : State) (v : Half) : (s.setAccOk v).hdrCmdstat = s.hdrCmdstat := rfl
@[simp] theorem State.setAccOk_hdrPlen (s : State) (v : Half) : (s.setAccOk v).hdrPlen = s.hdrPlen := rfl
@[simp] theorem State.setAccOk_hdrCksum (s : State) (v : Half) : (s.setAccOk v).hdrCksum = s.hdrCksum := rfl
@[simp] theorem State.setAccOk_pktBuf (s : State) (v : Half) : (s.setAccOk v).pktBuf = s.pktBuf := rfl
@[simp] theorem State.setAccOk_launch (s : State) (v : Half) : (s.setAccOk v).launch = s.launch := rfl
@[simp] theorem State.setAccOk_inputs (s : State) (v : Half) : (s.setAccOk v).inputs = s.inputs := rfl
@[simp] theorem State.setAccOk_reply (s : State) (v : Half) : (s.setAccOk v).reply = s.reply := rfl

/-! ### extractHeader -/

@[simp] theorem State.extractHeader_params (s : State) : (s.extractHeader).params = s.params := rfl
@[simp] theorem State.extractHeader_status (s : State) : (s.extractHeader).status = s.status := rfl
@[simp] theorem State.extractHeader_data (s : State) : (s.extractHeader).data = s.data := rfl
@[simp] theorem State.extractHeader_acc (s : State) : (s.extractHeader).acc = s.acc := rfl
@[simp] theorem State.extractHeader_frameLen (s : State) : (s.extractHeader).frameLen = s.frameLen := rfl
@[simp] theorem State.extractHeader_hdrCmdstat (s : State) : (s.extractHeader).hdrCmdstat = s.field32 4 := rfl
@[simp] theorem State.extractHeader_hdrPlen (s : State) : (s.extractHeader).hdrPlen = s.field32 8 := rfl
@[simp] theorem State.extractHeader_hdrCksum (s : State) : (s.extractHeader).hdrCksum = s.field16 12 := rfl
@[simp] theorem State.extractHeader_pktBuf (s : State) : (s.extractHeader).pktBuf = s.pktBuf := rfl
@[simp] theorem State.extractHeader_launch (s : State) : (s.extractHeader).launch = s.launch := rfl
@[simp] theorem State.extractHeader_inputs (s : State) : (s.extractHeader).inputs = s.inputs := rfl
@[simp] theorem State.extractHeader_reply (s : State) : (s.extractHeader).reply = s.reply := rfl

/-! ### illegalCommand -/

@[simp] theorem State.illegalCommand_params (s : State) : (s.illegalCommand).params = s.params := rfl
@[simp] theorem State.illegalCommand_status (s : State) : (s.illegalCommand).status = setFCmd (setResult .eBadcmd (setValid false s.status)) := rfl
@[simp] theorem State.illegalCommand_data (s : State) : (s.illegalCommand).data = s.data := rfl
@[simp] theorem State.illegalCommand_acc (s : State) : (s.illegalCommand).acc = s.acc := rfl
@[simp] theorem State.illegalCommand_frameLen (s : State) : (s.illegalCommand).frameLen = s.frameLen := rfl
@[simp] theorem State.illegalCommand_hdrCmdstat (s : State) : (s.illegalCommand).hdrCmdstat = s.hdrCmdstat := rfl
@[simp] theorem State.illegalCommand_hdrPlen (s : State) : (s.illegalCommand).hdrPlen = s.hdrPlen := rfl
@[simp] theorem State.illegalCommand_hdrCksum (s : State) : (s.illegalCommand).hdrCksum = s.hdrCksum := rfl
@[simp] theorem State.illegalCommand_pktBuf (s : State) : (s.illegalCommand).pktBuf = s.pktBuf := rfl
@[simp] theorem State.illegalCommand_launch (s : State) : (s.illegalCommand).launch = s.launch := rfl
@[simp] theorem State.illegalCommand_inputs (s : State) : (s.illegalCommand).inputs = s.inputs := rfl
@[simp] theorem State.illegalCommand_reply (s : State) : (s.illegalCommand).reply = s.reply := rfl

/-! ### takeInput -/

@[simp] theorem State.takeInput_params (s : State) : (s.takeInput).params = s.params := rfl
@[simp] theorem State.takeInput_status (s : State) : (s.takeInput).status = s.status := rfl
@[simp] theorem State.takeInput_data (s : State) : (s.takeInput).data = s.data := rfl
@[simp] theorem State.takeInput_acc (s : State) : (s.takeInput).acc = s.acc := rfl
@[simp] theorem State.takeInput_frameLen (s : State) : (s.takeInput).frameLen = s.frameLen := rfl
@[simp] theorem State.takeInput_hdrCmdstat (s : State) : (s.takeInput).hdrCmdstat = s.hdrCmdstat := rfl
@[simp] theorem State.takeInput_hdrPlen (s : State) : (s.takeInput).hdrPlen = s.hdrPlen := rfl
@[simp] theorem State.takeInput_hdrCksum (s : State) : (s.takeInput).hdrCksum = s.hdrCksum := rfl
@[simp] theorem State.takeInput_pktBuf (s : State) : (s.takeInput).pktBuf = s.pktBuf := rfl
@[simp] theorem State.takeInput_launch (s : State) : (s.takeInput).launch = s.launch := rfl
@[simp] theorem State.takeInput_inputs (s : State) : (s.takeInput).inputs = s.inputs.tail := rfl
@[simp] theorem State.takeInput_reply (s : State) : (s.takeInput).reply = .none := rfl

/-! ### applyReset -/

@[simp] theorem State.applyReset_params (s : State) : (s.applyReset).params = s.params := rfl
@[simp] theorem State.applyReset_status (s : State) : (s.applyReset).status = 0#32 := rfl
@[simp] theorem State.applyReset_data (s : State) : (s.applyReset).data = 0#32 := rfl
@[simp] theorem State.applyReset_acc (s : State) : (s.applyReset).acc = 0#16 := rfl
@[simp] theorem State.applyReset_frameLen (s : State) : (s.applyReset).frameLen = 0#32 := rfl
@[simp] theorem State.applyReset_hdrCmdstat (s : State) : (s.applyReset).hdrCmdstat = 0#32 := rfl
@[simp] theorem State.applyReset_hdrPlen (s : State) : (s.applyReset).hdrPlen = 0#32 := rfl
@[simp] theorem State.applyReset_hdrCksum (s : State) : (s.applyReset).hdrCksum = 0#16 := rfl
@[simp] theorem State.applyReset_pktBuf (s : State) : (s.applyReset).pktBuf = [] := rfl
@[simp] theorem State.applyReset_launch (s : State) : (s.applyReset).launch = s.launch + 1 := rfl
@[simp] theorem State.applyReset_inputs (s : State) : (s.applyReset).inputs = s.inputs := rfl
@[simp] theorem State.applyReset_reply (s : State) : (s.applyReset).reply = .none := rfl

end Sys2Proof.Machine
end

