-- ==== Sys2Proof/Laws/Memory.lean ====
section
/-! SUPPORT. The packet buffer: a read after a write, the canonical form, and what MemRead and MemWrite do (spec/41_framer.md
R130). -/

namespace Sys2Proof.Machine

theorem Memory.get?_put_same (m : List Host.Cell) (i : Nat) (v : Byte) :
    Memory.get? (Memory.put m i v) i = some v := by
  induction m with
  | nil => simp [Memory.put, Memory.get?]
  | cons c m ih =>
    obtain ⟨a, b⟩ := c
    simp only [Memory.put]
    split
    · simp [Memory.get?]
    · split
      · simp [Memory.get?]
      · rename_i h
        simp [Memory.get?, ih, Ne.symm h]

theorem Memory.get?_put_ne (m : List Host.Cell) {i j : Nat} (v : Byte) (h : j ≠ i) :
    Memory.get? (Memory.put m i v) j = Memory.get? m j := by
  induction m with
  | nil => simp [Memory.put, Memory.get?, Ne.symm h]
  | cons c m ih =>
    obtain ⟨a, b⟩ := c
    simp only [Memory.put]
    split
    · simp [Memory.get?, Ne.symm h]
    · split
      · subst_vars
        simp [Memory.get?, Ne.symm h]
      · simp [Memory.get?, ih]

theorem Memory.mem_put {m : List Host.Cell} {i : Nat} {v : Byte} {c : Host.Cell}
    (h : c ∈ Memory.put m i v) : c = (i, v) ∨ c ∈ m := by
  induction m with
  | nil => simpa [Memory.put] using h
  | cons d m ih =>
    obtain ⟨a, b⟩ := d
    simp only [Memory.put] at h
    split at h
    · simpa using h
    · split at h
      · rcases List.mem_cons.mp h with h | h <;> simp [h]
      · rcases List.mem_cons.mp h with h | h
        · simp [h]
        · rcases ih h with h | h <;> simp [h]

/-- Every write inside the buffer keeps the canonical form. -/
theorem Memory.put_wf {size i : Nat} {m : List Host.Cell} (v : Byte) (h : Memory.wf size m) (hi : i < size) :
    Memory.wf size (Memory.put m i v) := by
  obtain ⟨hs, hb⟩ := h
  refine ⟨?_, fun c hc => ?_⟩
  · clear hb
    induction m with
    | nil => simp [Memory.put]
    | cons d m ih =>
      obtain ⟨a, b⟩ := d
      obtain ⟨hd, hm⟩ := List.pairwise_cons.mp hs
      simp only [Memory.put]
      split
      · rename_i hlt
        refine List.pairwise_cons.mpr ⟨fun c hc => ?_, hs⟩
        rcases List.mem_cons.mp hc with rfl | hc
        · exact hlt
        · exact Nat.lt_trans hlt (hd c hc)
      · split
        · subst_vars
          exact List.pairwise_cons.mpr ⟨hd, hm⟩
        · refine List.pairwise_cons.mpr ⟨fun c hc => ?_, ih hm⟩
          rcases Memory.mem_put hc with rfl | hc
          · simp only; omega
          · exact hd c hc
  · rcases Memory.mem_put hc with rfl | hc
    · exact hi
    · exact hb c hc

@[simp] theorem State.bufByte_putByte_same (s : State) (i : Nat) (b : Byte) : (s.putByte i b).bufByte i = b := by
  simp [State.bufByte, Memory.get?_put_same]

theorem State.bufByte_putByte_ne (s : State) {i j : Nat} (b : Byte) (h : j ≠ i) :
    (s.putByte i b).bufByte j = s.bufByte j := by
  simp [State.bufByte, Memory.get?_put_ne _ _ h]

theorem State.bufByte_putByte (s : State) (i j : Nat) (b : Byte) :
    (s.putByte i b).bufByte j = if j = i then b else s.bufByte j := by
  by_cases h : j = i
  · simp [h]
  · simp [h, State.bufByte_putByte_ne _ _ h]

/-- A byte of the buffer depends on the written bytes and the launch alone. -/
theorem State.bufByte_congr {s t : State} (hm : t.pktBuf = s.pktBuf) (hl : t.launch = s.launch) (i : Nat) :
    t.bufByte i = s.bufByte i := by
  simp [State.bufByte, hm, hl]

theorem State.bufBytes_length (s : State) (i n : Nat) : (s.bufBytes i n).length = n := by
  simp [State.bufBytes]

/-- The bytes from an index on, one more. -/
theorem State.bufBytes_succ (s : State) (i n : Nat) :
    s.bufBytes i (n + 1) = s.bufByte i :: s.bufBytes (i + 1) n := by
  simp only [State.bufBytes, List.range_succ_eq_map, List.map_cons, List.map_map, Nat.add_zero]
  congr 1
  apply List.map_congr_left
  intro k _
  simp [Nat.add_assoc, Nat.add_comm 1 k]

/-- The bytes of a range depend on that range alone. -/
theorem State.bufBytes_congr {s t : State} {i n : Nat} (h : ∀ k, i ≤ k → k < i + n → t.bufByte k = s.bufByte k) :
    t.bufBytes i n = s.bufBytes i n :=
  List.map_congr_left fun k hk => h (i + k) (by omega) (by have := List.mem_range.mp hk; omega)

/-- MemRead depends on its own bytes and on the byte order alone. -/
theorem State.memRead_congr {s t : State} {i n : Nat} (ho : t.params = s.params)
    (h : ∀ k, i ≤ k → k < i + n → t.bufByte k = s.bufByte k) : t.memRead i n = s.memRead i n := by
  unfold State.memRead
  rw [ho, List.map_congr_left fun k hk => ?_]
  rw [h (i + k) (by omega) (by have := List.mem_range.mp hk; omega)]

/-- Everything MemWrite does to a state but for the bytes it stores: only the buffer changes. -/
theorem State.memWrite_eq (s : State) (i n v : Nat) :
    s.memWrite i n v = { s with pktBuf := (s.memWrite i n v).pktBuf } := by
  unfold State.memWrite
  generalize s.params.byteOrder = o
  induction (List.range n) generalizing s with
  | nil => rfl
  | cons k ks ih =>
    rw [List.foldl_cons, ih]
    simp [State.putByte]

@[simp] theorem State.memWrite_params (s : State) (i n v : Nat) : (s.memWrite i n v).params = s.params := by
  rw [State.memWrite_eq]

@[simp] theorem State.memWrite_status (s : State) (i n v : Nat) : (s.memWrite i n v).status = s.status := by
  rw [State.memWrite_eq]

@[simp] theorem State.memWrite_data (s : State) (i n v : Nat) : (s.memWrite i n v).data = s.data := by
  rw [State.memWrite_eq]

@[simp] theorem State.memWrite_acc (s : State) (i n v : Nat) : (s.memWrite i n v).acc = s.acc := by
  rw [State.memWrite_eq]

@[simp] theorem State.memWrite_frameLen (s : State) (i n v : Nat) : (s.memWrite i n v).frameLen = s.frameLen := by
  rw [State.memWrite_eq]

@[simp] theorem State.memWrite_hdrCmdstat (s : State) (i n v : Nat) : (s.memWrite i n v).hdrCmdstat = s.hdrCmdstat := by
  rw [State.memWrite_eq]

@[simp] theorem State.memWrite_hdrPlen (s : State) (i n v : Nat) : (s.memWrite i n v).hdrPlen = s.hdrPlen := by
  rw [State.memWrite_eq]

@[simp] theorem State.memWrite_hdrCksum (s : State) (i n v : Nat) : (s.memWrite i n v).hdrCksum = s.hdrCksum := by
  rw [State.memWrite_eq]

@[simp] theorem State.memWrite_launch (s : State) (i n v : Nat) : (s.memWrite i n v).launch = s.launch := by
  rw [State.memWrite_eq]

@[simp] theorem State.memWrite_inputs (s : State) (i n v : Nat) : (s.memWrite i n v).inputs = s.inputs := by
  rw [State.memWrite_eq]

@[simp] theorem State.memWrite_reply (s : State) (i n v : Nat) : (s.memWrite i n v).reply = s.reply := by
  rw [State.memWrite_eq]

/-- The four bytes a 4-byte MemWrite stores, and no others. -/
theorem State.bufByte_memWrite4 (s : State) (i v j : Nat) :
    (s.memWrite i 4 v).bufByte j =
      if i ≤ j ∧ j < i + 4 then BitVec.ofNat 8 (v >>> byteShift s.params.byteOrder 4 (j - i)) else s.bufByte j := by
  simp only [State.memWrite, show List.range 4 = [0, 1, 2, 3] from rfl, List.foldl_cons, List.foldl_nil,
    State.bufByte_putByte, Nat.add_zero]
  split
  · subst_vars; simp
  · split
    · subst_vars; simp
    · split
      · subst_vars; simp
      · split
        · subst_vars; simp
        · rw [if_neg]; omega

/-- The two bytes a 2-byte MemWrite stores, and no others. -/
theorem State.bufByte_memWrite2 (s : State) (i v j : Nat) :
    (s.memWrite i 2 v).bufByte j =
      if i ≤ j ∧ j < i + 2 then BitVec.ofNat 8 (v >>> byteShift s.params.byteOrder 2 (j - i)) else s.bufByte j := by
  simp only [State.memWrite, show List.range 2 = [0, 1] from rfl, List.foldl_cons, List.foldl_nil,
    State.bufByte_putByte, Nat.add_zero]
  split
  · subst_vars; simp
  · split
    · subst_vars; simp
    · rw [if_neg]; omega

/-- A MemWrite inside the buffer keeps its canonical form. -/
theorem State.memWrite_wf {s : State} {size i n : Nat} (v : Nat) (h : Memory.wf size s.pktBuf) (hi : i + n ≤ size) :
    Memory.wf size (s.memWrite i n v).pktBuf := by
  unfold State.memWrite
  generalize s.params.byteOrder = o
  have hk : ∀ k ∈ List.range n, i + k < size := fun k hk => by
    have := List.mem_range.mp hk
    omega
  generalize List.range n = l at hk
  induction l generalizing s with
  | nil => exact h
  | cons k ks ih =>
    rw [List.foldl_cons]
    exact ih (Memory.put_wf _ h (hk k (by simp))) fun k hk' => hk k (by simp [hk'])

end Sys2Proof.Machine
end

