-- ==== Sys2Proof/Laws/Ones.lean ====
section
/-! SUPPORT. One's-complement addition as arithmetic on numbers (spec/40_checksum.md R100), the sum of a longer list (R101)
and the lengths of word views (R104). -/

namespace Sys2Proof.Machine

/-- One's-complement addition, exactly: 65535 is taken off when the sum carries out of bit 15. -/
theorem onesAdd_toNat (a b : Half) :
    (onesAdd a b).toNat = if a.toNat + b.toNat < 65536 then a.toNat + b.toNat else a.toNat + b.toNat - 65535 := by
  have ha := a.isLt
  have hb := b.isLt
  simp only [onesAdd, BitVec.toNat_add, BitVec.toNat_setWidth, BitVec.extractLsb'_toNat,
    Nat.shiftRight_eq_div_pow]
  norm_num only
  split <;> omega

/-- Two bytes put together as a word, as a number. -/
theorem joinBytes_toNat (hi lo : Byte) : (joinBytes hi lo).toNat = hi.toNat * 256 + lo.toNat := by
  rw [joinBytes, BitVec.toNat_append, ← Nat.shiftLeft_add_eq_or_of_lt lo.isLt, Nat.shiftLeft_eq]

theorem onesSum_nil : onesSum [] = 0#16 := rfl

theorem onesSum_append_singleton (ws : List Half) (w : Half) : onesSum (ws ++ [w]) = onesAdd (onesSum ws) w := by
  simp [onesSum]

theorem wordView_nil (o : ByteOrder) : wordView o [] = [] := rfl

theorem wordView_singleton (o : ByteOrder) (b : Byte) : wordView o [b] = [joinBytes b 0#8] := rfl

theorem wordView_cons_cons (o : ByteOrder) (b c : Byte) (bs : List Byte) :
    wordView o (b :: c :: bs) = pairWord o b c :: wordView o bs := rfl

/-- The sum over the first bytes of the buffer depends on those bytes and on the byte order alone. -/
theorem State.frameSum_congr {s t : State} {n : Nat} (ho : t.params = s.params)
    (h : ∀ k, k < n → t.bufByte k = s.bufByte k) : t.frameSum n = s.frameSum n := by
  unfold State.frameSum State.words
  rw [ho, State.bufBytes_congr fun k _ hk => h k (by omega)]

end Sys2Proof.Machine
end

