-- ==== Sys2Proof/Laws/PerInstr.lean ====
section
/-! SUPPORT. Statements about every command as syntax, one lemma per constructor. -/

namespace Sys2Proof.Laws.EncodedWord

/-- The word of a command is a well-formed command word: MBZ zero and an assigned opcode (R70, R71). -/
def Statement (i : Instr) : Prop := commandWordWf (encode i) = true

theorem ckClr : Statement .ckClr := by unfold Statement; decide

theorem ckAdd16 : Statement .ckAdd16 := by unfold Statement; decide

theorem ckAdd8h : Statement .ckAdd8h := by unfold Statement; decide

theorem ckBuf : Statement .ckBuf := by unfold Statement; decide

theorem frEncode : Statement .frEncode := by unfold Statement; decide

theorem frDecode : Statement .frDecode := by unfold Statement; decide

end Sys2Proof.Laws.EncodedWord
end

