-- ==== Sys2Proof/Laws/Status.lean ====
section
/-! SUPPORT. What each write to STATUS does to its fields (spec/10_state.md R24, R25, R26). -/

namespace Sys2Proof.Machine

theorem getLsbD_setResult (c : ResultCode) (st : Word) (k : Nat) :
    (setResult c st).getLsbD k = if k < 4 then c.code.getLsbD k else st.getLsbD k := by
  by_cases hk : k < 32
  · interval_cases k <;> cases c <;> simp [setResult, ResultCode.code]
  · rw [BitVec.getLsbD_of_ge _ _ (by omega), if_neg (by omega), BitVec.getLsbD_of_ge _ _ (by omega)]

theorem getLsbD_setValid (v : Bool) (st : Word) (k : Nat) :
    (setValid v st).getLsbD k = if k = 4 then v else st.getLsbD k := by
  by_cases hk : k < 32
  · interval_cases k <;> cases v <;> simp [setValid]
  · rw [BitVec.getLsbD_of_ge _ _ (by omega), if_neg (by omega), BitVec.getLsbD_of_ge _ _ (by omega)]

theorem getLsbD_setFOversize (st : Word) (k : Nat) :
    (setFOversize st).getLsbD k = (k == 28 || k == 31 || st.getLsbD k) := by
  by_cases hk : k < 32
  · interval_cases k <;> simp [setFOversize]
  · rw [BitVec.getLsbD_of_ge _ _ (by omega), BitVec.getLsbD_of_ge _ _ (by omega)]
    simp; omega

theorem getLsbD_setFCmd (st : Word) (k : Nat) :
    (setFCmd st).getLsbD k = (k == 29 || k == 31 || st.getLsbD k) := by
  by_cases hk : k < 32
  · interval_cases k <;> simp [setFCmd]
  · rw [BitVec.getLsbD_of_ge _ _ (by omega), BitVec.getLsbD_of_ge _ _ (by omega)]
    simp; omega

theorem getLsbD_setFBus (st : Word) (k : Nat) :
    (setFBus st).getLsbD k = (k == 30 || k == 31 || st.getLsbD k) := by
  by_cases hk : k < 32
  · interval_cases k <;> simp [setFBus]
  · rw [BitVec.getLsbD_of_ge _ _ (by omega), BitVec.getLsbD_of_ge _ _ (by omega)]
    simp; omega

/-- The sticky bits a raised result code sets, and no other bit. -/
theorem getLsbD_setStickyOf (c : ResultCode) (st : Word) (k : Nat) :
    (setStickyOf c st).getLsbD k =
      ((match c with
        | .eOversize => k == 28 || k == 31
        | .eBadcmd => k == 29 || k == 31
        | _ => false) || st.getLsbD k) := by
  cases c <;> simp [setStickyOf, getLsbD_setFOversize, getLsbD_setFCmd]

/-- Two STATUS words with the same RESULT field. -/
theorem statusResult_congr {a b : Word} (h : ∀ k, k < 4 → a.getLsbD k = b.getLsbD k) :
    statusResult a = statusResult b := by
  apply BitVec.eq_of_getLsbD_eq
  intro k hk
  simp [statusResult, hk, h k hk]

/-- Two STATUS words with the same reserved field. -/
theorem statusReserved_congr {a b : Word} (h : ∀ k, 5 ≤ k → k < 28 → a.getLsbD k = b.getLsbD k) :
    statusReserved a = statusReserved b := by
  apply BitVec.eq_of_getLsbD_eq
  intro k hk
  simp [statusReserved, hk, h (5 + k) (by omega) (by omega)]

@[simp] theorem statusResult_setResult (c : ResultCode) (st : Word) : statusResult (setResult c st) = c.code := by
  apply BitVec.eq_of_getLsbD_eq
  intro k hk
  simp [statusResult, hk, getLsbD_setResult]

@[simp] theorem statusResult_setValid (v : Bool) (st : Word) : statusResult (setValid v st) = statusResult st :=
  statusResult_congr fun k hk => by rw [getLsbD_setValid, if_neg (by omega)]

@[simp] theorem statusResult_setFOversize (st : Word) : statusResult (setFOversize st) = statusResult st :=
  statusResult_congr fun k hk => by
    rw [getLsbD_setFOversize]; simp; omega

@[simp] theorem statusResult_setFCmd (st : Word) : statusResult (setFCmd st) = statusResult st :=
  statusResult_congr fun k hk => by
    rw [getLsbD_setFCmd]; simp; omega

@[simp] theorem statusResult_setFBus (st : Word) : statusResult (setFBus st) = statusResult st :=
  statusResult_congr fun k hk => by
    rw [getLsbD_setFBus]; simp; omega

@[simp] theorem statusResult_setStickyOf (c : ResultCode) (st : Word) :
    statusResult (setStickyOf c st) = statusResult st := by
  cases c <;> simp [setStickyOf]

@[simp] theorem statusValid_setResult (c : ResultCode) (st : Word) :
    statusValid (setResult c st) = statusValid st := getLsbD_setResult c st 4

@[simp] theorem statusValid_setValid (v : Bool) (st : Word) : statusValid (setValid v st) = v :=
  getLsbD_setValid v st 4

@[simp] theorem statusValid_setFBus (st : Word) : statusValid (setFBus st) = statusValid st :=
  getLsbD_setFBus st 4

@[simp] theorem statusValid_setStickyOf (c : ResultCode) (st : Word) :
    statusValid (setStickyOf c st) = statusValid st := by
  cases c
  · rfl
  · rfl
  · rfl
  · rfl
  · exact getLsbD_setFOversize st 4
  · exact getLsbD_setFCmd st 4

/-- A bit of STATUS above VALID is changed only by the sticky bits of what is raised. -/
theorem getLsbD_raise (s : State) (e : ResultCode) {k : Nat} (hk : 5 ≤ k) :
    (s.clearValid.raise e).status.getLsbD k =
      ((match e with
        | .eOversize => k == 28 || k == 31
        | .eBadcmd => k == 29 || k == 31
        | _ => false) || s.status.getLsbD k) := by
  rw [State.raise_status, getLsbD_setStickyOf, getLsbD_setResult, if_neg (by omega), State.clearValid_status,
    getLsbD_setValid, if_neg (by omega)]

/-- A bit of STATUS above VALID is not changed by a command that completes. -/
theorem getLsbD_complete (s : State) (v : Bool) {k : Nat} (hk : 5 ≤ k) :
    (s.complete v).status.getLsbD k = s.status.getLsbD k := by
  rw [State.complete_status, getLsbD_setValid, if_neg (by omega), getLsbD_setResult, if_neg (by omega)]

/-- A bus error changes no bit of STATUS but F_BUS and FAULT. -/
theorem getLsbD_busError (s : State) (k : Nat) :
    s.busError.status.getLsbD k = (k == 30 || k == 31 || s.status.getLsbD k) := by
  rw [State.busError_status, getLsbD_setFBus]

end Sys2Proof.Machine
end

