-- ==== Sys2Proof/Laws/Step.lean ====
section
/-! SUPPORT. What each command answers, and what a step can be: proofs about steps cite these instead of unfolding the step. -/

namespace Sys2Proof.Machine

theorem exec_ckClr (s : State) : exec .ckClr s = .next (s.setAccOk 0#16) := rfl

theorem exec_ckAdd16 (s : State) : exec .ckAdd16 s = .next (s.setAccOk (onesAdd s.acc s.dataHalf)) := rfl

theorem exec_ckAdd8h (s : State) : exec .ckAdd8h s = .next (s.setAccOk (onesAdd s.acc s.dataHighByte)) := rfl

theorem exec_ckBuf (s : State) : exec .ckBuf s = .next (ckBufState s) := rfl

theorem exec_frEncode (s : State) : exec .frEncode s = .next (frEncodeState s) := rfl

theorem exec_frDecode (s : State) : exec .frDecode s = .next (frDecodeState s) := rfl

/-- CK_BUF either raises E_OVERSIZE or adds the buffer's sum (R114). -/
theorem ckBufState_cases (s : State) :
    (s.params.bufSize.toNat < s.frameLen.toNat ∧ ckBufState s = s.clearValid.raise .eOversize) ∨
    (s.frameLen.toNat ≤ s.params.bufSize.toNat ∧
      ckBufState s = s.setAccOk (onesAdd s.acc (s.frameSum s.frameLen.toNat))) := by
  unfold ckBufState
  by_cases h : s.params.bufSize.toNat < s.frameLen.toNat
  · exact .inl ⟨h, by simp [h]⟩
  · exact .inr ⟨by omega, by simp [h]⟩

/-- FR_ENCODE either raises E_OVERSIZE or stamps the frame (R135). -/
theorem frEncodeState_cases (s : State) :
    (s.params.bufSize.toNat < 14 + s.hdrPlen.toNat ∧ frEncodeState s = s.clearValid.raise .eOversize) ∨
    (14 + s.hdrPlen.toNat ≤ s.params.bufSize.toNat ∧
      frEncodeState s = (s.stampHeader.stampChecksum (14 + s.hdrPlen.toNat)).complete false) := by
  unfold frEncodeState
  by_cases h : s.params.bufSize.toNat < 14 + s.hdrPlen.toNat
  · exact .inl ⟨h, by simp [h]⟩
  · exact .inr ⟨by omega, by simp [h]⟩

/-- FR_DECODE raises the error of the first check that fails, or accepts (R140, R141, R176). -/
theorem frDecodeState_cases (s : State) :
    (s.frameLen.toNat < 4 ∧ frDecodeState s = s.clearValid.raise .eLen) ∨
    (4 ≤ s.frameLen.toNat ∧ s.field32 0 ≠ s.params.signature ∧ frDecodeState s = s.clearValid.raise .eSig) ∨
    (4 ≤ s.frameLen.toNat ∧ s.field32 0 = s.params.signature ∧
      (s.frameLen.toNat < 14 ∨ s.frameLen.toNat ≠ 14 + (s.field32 8).toNat ∨
        s.params.bufSize.toNat < s.frameLen.toNat) ∧
      frDecodeState s = s.clearValid.raise .eLen) ∨
    (14 ≤ s.frameLen.toNat ∧ s.field32 0 = s.params.signature ∧ s.frameLen.toNat = 14 + (s.field32 8).toNat ∧
      s.frameLen.toNat ≤ s.params.bufSize.toNat ∧ frDecodeState s = s.checkSum s.frameLen.toNat) := by
  unfold frDecodeState
  dsimp only
  split
  · exact .inl ⟨‹_›, rfl⟩
  · split
    · exact .inr (.inl ⟨by omega, ‹_›, rfl⟩)
    · have hsig : s.field32 0 = s.params.signature := by simpa using ‹¬ s.field32 0 ≠ s.params.signature›
      split
      · exact .inr (.inr (.inl ⟨by omega, hsig, .inl ‹_›, rfl⟩))
      · split
        · exact .inr (.inr (.inl ⟨by omega, hsig, .inr ‹_›, rfl⟩))
        · exact .inr (.inr (.inr ⟨by omega, hsig, by omega, by omega, rfl⟩))

/-- The checksum stage raises E_CKSUM or extracts the header (R140). -/
theorem State.checkSum_cases (s : State) (len : Nat) :
    (s.frameSum len ≠ 0xFFFF#16 ∧
      s.checkSum len = ({ s with acc := s.frameSum len } : State).clearValid.raise .eCksum) ∨
    (s.frameSum len = 0xFFFF#16 ∧
      s.checkSum len = ({ s with acc := s.frameSum len } : State).extractHeader.complete true) := by
  unfold State.checkSum
  by_cases h : s.frameSum len = 0xFFFF#16
  · exact .inr ⟨h, by simp [h]⟩
  · exact .inl ⟨h, by simp [h]⟩

/-- Every command answers a next state. -/
theorem exec_next (i : Instr) (s : State) : ∃ t, exec i s = .next t := by
  cases i <;> exact ⟨_, rfl⟩

/-- Everything a step that answers a next state can be: a command, an illegal word, a plain access, or reset. -/
theorem step_cases {s t : State} (h : step s = .next t) :
    (∃ a w i, s.inputs.head? = some (.access a) ∧ a.commandWord? = some w ∧ decodeCmd w = .command i ∧
      exec i s.takeInput = .next t) ∨
    (∃ a w why, s.inputs.head? = some (.access a) ∧ a.commandWord? = some w ∧ decodeCmd w = .illegal why ∧
      t = s.takeInput.illegalCommand) ∨
    (∃ a, s.inputs.head? = some (.access a) ∧ a.commandWord? = none ∧ t = s.takeInput.plainAccess a) ∨
    (s.inputs.head? = some .reset ∧ t = s.takeInput.applyReset) := by
  unfold step hostStep at h
  split at h
  · cases h
  · rename_i a rest heq
    unfold State.hostAccess at h
    split at h
    · rename_i w hw
      unfold State.command at h
      split at h
      · exact .inl ⟨a, w, _, by simp [heq], hw, ‹_›, h⟩
      · exact .inr (.inl ⟨a, w, _, by simp [heq], hw, ‹_›, by cases h; rfl⟩)
    · exact .inr (.inr (.inl ⟨a, by simp [heq], ‹_›, by cases h; rfl⟩))
  · rename_i rest heq
    exact .inr (.inr (.inr ⟨by simp [heq], by cases h; rfl⟩))
  · cases h

/-- A run of one step more, after a step that goes on. -/
theorem run_succ {s t : State} (n : Nat) (h : step s = .next t) : run (n + 1) s = run n t := by
  simp [run, h]

/-- A run that gives a state has a first step that goes on. -/
theorem run_succ_next {s u : State} {n : Nat} (h : run (n + 1) s = .next u) :
    ∃ t, step s = .next t ∧ run n t = .next u := by
  unfold run at h
  split at h
  · exact ⟨_, ‹_›, h⟩
  · cases h
  · cases h

/-- The host's own run, by the outcome of the first step, for any machine. -/
theorem core_run_succ (M : Host.Core) (n : Nat) (s : M.State) :
    (∀ t, M.step s = .next t → M.run (n + 1) s = M.run n t) ∧
    (∀ r, M.step s = .fault r → M.run (n + 1) s = .fault r) ∧
    ∀ r, M.step s = .refused r → M.run (n + 1) s = .refused r := by
  refine ⟨fun t h => ?_, fun r h => ?_, fun r h => ?_⟩ <;> rw [Host.Core.run, h]

/-- The host's own run is this run. -/
theorem core_run_eq (n : Nat) (s : State) : Host.Core.run Sys2Proof.core n s = run n s := by
  induction n generalizing s with
  | zero => rfl
  | succ n ih =>
    obtain ⟨hn, hf, hr⟩ := core_run_succ Sys2Proof.core n s
    cases h : step s with
    | next t => exact (hn t h).trans ((ih t).trans (run_succ n h).symm)
    | fault r => exact (hf r h).trans (by simp only [run, h]; rfl)
    | refused r => exact (hr r h).trans (by simp only [run, h]; rfl)

end Sys2Proof.Machine
end

