-- ==== Sys2Proof/Tests/Slice0.lean ====
section
/-! SUPPORT. The model's own tests. Expected values are those of spec/95_test_vectors.md (named K, F, D, A, E as there) or of the
rule cited; the last section gives, for each statement with hypotheses, a concrete case that meets them all. -/

namespace Sys2Proof.Tests

open Sys2Proof.Machine

/-! ### Helpers -/

/-- Written bytes from an index on. -/
def cellsFrom : Nat → List Byte → List Host.Cell
  | _, [] => []
  | i, b :: bs => (i, b) :: cellsFrom (i + 1) bs

/-- The block of the vectors' test configuration (95_test_vectors.md), with bytes written from an index on. -/
def block (o : ByteOrder) (i : Nat) (bytes : List Byte) : State :=
  { State.reset with params := ⟨0x5AA5C33C#32, o, 256#32⟩, pktBuf := cellsFrom i bytes }

/-- The property holds of the next state. -/
def after (r : Host.Outcome State Fault Refusal) (p : State → Bool) : Bool :=
  match r with
  | .next t => p t
  | .fault _ => false
  | .refused _ => false

/-- "hello". -/
def hello : List Byte := [0x68#8, 0x65#8, 0x6C#8, 0x6C#8, 0x6F#8]

/-- The frame of vector F2. -/
def frameF2 : List Byte :=
  [0x5A#8, 0xA5#8, 0xC3#8, 0x3C#8, 0x00#8, 0x00#8, 0x00#8, 0x02#8, 0x00#8, 0x00#8, 0x00#8, 0x05#8, 0x9E#8, 0x44#8] ++ hello

/-- The frame of vector F5. -/
def frameF5 : List Byte :=
  [0x3C#8, 0xC3#8, 0xA5#8, 0x5A#8, 0x02#8, 0x00#8, 0x00#8, 0x00#8, 0x05#8, 0x00#8, 0x00#8, 0x00#8, 0x41#8, 0xA1#8] ++ hello

/-- The state before FR_ENCODE in F2 and F5: the payload in place, the header registers set. -/
def beforeHello (o : ByteOrder) : State := { block o 14 hello with hdrCmdstat := 2#32, hdrPlen := 5#32 }

/-- The start state of the D vectors: the frame of F2, and marked header registers. -/
def startD : State :=
  { block .be 0 frameF2 with
    frameLen := 19#32, hdrCmdstat := 0xDEADBEEF#32, hdrPlen := 0xDEADBEEF#32, hdrCksum := 0xBEEF#16 }

/-- The status, the accumulator and whether the header registers still hold their marks. -/
def verdict (r : Host.Outcome State Fault Refusal) (st : Word) (acc : Half) : Bool :=
  after r fun t =>
    t.status == st && t.acc == acc && t.hdrCmdstat == 0xDEADBEEF#32 && t.hdrPlen == 0xDEADBEEF#32 && t.hdrCksum == 0xBEEF#16

/-! ### Well-formedness and decoding (R70, R71, R73) -/

/-- E2: a word with MBZ ≠ 0 is ill formed, and so is one with an unassigned opcode. -/
theorem test_ill_formed_words_are_refused :
    mbzClear 0x00000101#32 = false ∧ commandWordWf 0x00000101#32 = false ∧ mbzClear 0x80000001#32 = false ∧
    opAssigned 0x12#8 = false ∧ commandWordWf 0x00000012#32 = false ∧ commandWordWf 0x00000000#32 = false ∧
    commandWordWf 0x00000011#32 = true := by decide

/-- Every command is well formed, and its word is. -/
theorem test_commands_are_wellFormed (i : Instr) : i.wellFormed = true ∧ commandWordWf (encode i) = true := by
  cases i <;> decide

/-- R70, R71, bit by bit: MBZ in bits 31:8, OP in bits 7:0. -/
theorem test_decode_checksum_family :
    decodeCmd 0b00000000000000000000000000000001#32 = .command .ckClr ∧
    decodeCmd 0b00000000000000000000000000000010#32 = .command .ckAdd16 ∧
    decodeCmd 0b00000000000000000000000000000011#32 = .command .ckAdd8h ∧
    decodeCmd 0b00000000000000000000000000000100#32 = .command .ckBuf := by decide

/-- R70, R71, bit by bit. -/
theorem test_decode_framer_family :
    decodeCmd 0b00000000000000000000000000010000#32 = .command .frEncode ∧
    decodeCmd 0b00000000000000000000000000010001#32 = .command .frDecode := by decide

/-- R73 at the edges of its ranges. -/
theorem test_decode_illegal_edges :
    decodeCmd 0x00000000#32 = .illegal .unassignedOpcode ∧ decodeCmd 0x00000005#32 = .illegal .unassignedOpcode ∧
    decodeCmd 0x0000000F#32 = .illegal .unassignedOpcode ∧ decodeCmd 0x00000012#32 = .illegal .unassignedOpcode ∧
    decodeCmd 0x000000FF#32 = .illegal .unassignedOpcode ∧ decodeCmd 0x00000101#32 = .illegal .mustBeZero ∧
    decodeTableWord 32 0x00000012 = none := by decide

/-- The words of the opcode table, numbered as it numbers them. -/
theorem test_decodeTableWord :
    decodeTableWord 32 1 = some .ckClr ∧ decodeTableWord 32 2 = some .ckAdd16 ∧ decodeTableWord 32 3 = some .ckAdd8h ∧
    decodeTableWord 32 4 = some .ckBuf ∧ decodeTableWord 32 16 = some .frEncode ∧
    decodeTableWord 32 17 = some .frDecode := by decide

/-- A command placed by `withFetchWord` runs as the first step after reset. -/
theorem test_first_step_after_reset (i : Instr) :
    ∃ t, step (State.reset.withFetchWord 32 (encode i).toNat) = .next t := by
  cases i <;> exact ⟨_, rfl⟩

/-! ### The checksum commands -/

/-- 95_test_vectors.md 3.1. -/
theorem test_onesAdd :
    onesAdd 0#16 0#16 = 0#16 ∧ onesAdd 0xFFFF#16 1#16 = 1#16 ∧ onesAdd 0x8000#16 0x8000#16 = 1#16 ∧
    onesAdd 0xFFFF#16 0xFFFF#16 = 0xFFFF#16 ∧ onesAdd 0#16 0xFFFF#16 = 0xFFFF#16 ∧
    onesAdd 0x1234#16 0xFFFF#16 = 0x1234#16 ∧ onesAdd 0x7FFF#16 0x8000#16 = 0xFFFF#16 ∧
    onesAdd 0xF000#16 0x2000#16 = 0x1001#16 := by decide

/-- 95_test_vectors.md section 2 and 3.2: an even and an odd sequence in both orders. -/
theorem test_byte_sums :
    onesSum (wordView .be [0x00#8, 0x01#8, 0xF2#8, 0x03#8, 0xF4#8, 0xF5#8, 0xF6#8, 0xF7#8]) = 0xDDF2#16 ∧
    onesSum (wordView .le [0x00#8, 0x01#8, 0xF2#8, 0x03#8, 0xF4#8, 0xF5#8, 0xF6#8, 0xF7#8]) = 0xF2DD#16 ∧
    onesSum (wordView .be [0x12#8, 0x34#8, 0x56#8]) = 0x6834#16 ∧
    onesSum (wordView .le [0x12#8, 0x34#8, 0x56#8]) = 0x8A12#16 ∧
    foldCarries 0x2DDF0 = 0xDDF2 := by decide

/-- K1 and K10: CK_CLR clears ACC and VALID. -/
theorem test_ckClr :
    after (exec .ckClr { block .be 0 [] with acc := 0x1234#16, status := 0x00000010#32 })
      (fun t => t.acc == 0#16 && t.readReg .ckResult == 0x0000FFFF#32 && t.status == 0#32) = true := by decide

/-- K2 and K4: no carry; bits 31:16 of DATA ignored. -/
theorem test_ckAdd16 :
    after (exec .ckAdd16 { block .be 0 [] with acc := 0x1234#16, data := 0x00005678#32 })
      (fun t => t.acc == 0x68AC#16 && t.status == 0#32) = true ∧
    after (exec .ckAdd16 { block .be 0 [] with data := 0xABCDFFFF#32 }) (fun t => t.acc == 0xFFFF#16) = true := by decide

/-- K3: end-around carry. -/
theorem test_ckAdd16_carry :
    after (exec .ckAdd16 { block .be 0 [] with acc := 0xFFFF#16, data := 1#32 }) (fun t => t.acc == 1#16) = true := by decide

/-- K5 and K6: the byte goes high; bits 31:8 of DATA ignored. -/
theorem test_ckAdd8h :
    after (exec .ckAdd8h { block .le 0 [] with acc := 0x0102#16, data := 3#32 }) (fun t => t.acc == 0x0402#16) = true ∧
    after (exec .ckAdd8h { block .be 0 [] with acc := 0xF000#16, data := 0xFFFFFF20#32 })
      (fun t => t.acc == 0x1001#16) = true := by decide

/-- K7 and K8. -/
theorem test_ckBuf :
    after (exec .ckBuf { block .be 0 [0x00#8, 0x01#8, 0xF2#8, 0x03#8, 0xF4#8, 0xF5#8, 0xF6#8, 0xF7#8] with frameLen := 8#32 })
      (fun t => t.acc == 0xDDF2#16 && t.readReg .ckResult == 0x0000220D#32) = true ∧
    after (exec .ckBuf { block .be 0 [] with acc := 0x1234#16 }) (fun t => t.acc == 0x1234#16 && t.status == 0#32) = true := by
  decide

/-- K9: oversize. -/
theorem test_ckBuf_oversize :
    after (exec .ckBuf { block .be 0 [] with acc := 0x1234#16, frameLen := 257#32 })
      (fun t => t.acc == 0x1234#16 && t.status == 0x90000004#32) = true := by decide

/-! ### The framer commands -/

/-- F2 and F5: the frame, byte by byte, in both orders. -/
theorem test_frEncode_hello :
    after (exec .frEncode (beforeHello .be))
      (fun t => t.bufBytes 0 19 == frameF2 && t.frameLen == 19#32 && t.hdrCksum == 0x9E44#16 && t.acc == 0x61BB#16) = true ∧
    after (exec .frEncode (beforeHello .le))
      (fun t => t.bufBytes 0 19 == frameF5 && t.frameLen == 19#32 && t.hdrCksum == 0xA141#16 && t.acc == 0x5EBE#16) = true := by
  decide +kernel

/-- F10 and F11: oversize writes nothing but STATUS; the one checksum of 0xFFFF. -/
theorem test_frEncode_corners :
    after (exec .frEncode { block .be 0 [] with hdrPlen := 243#32 })
      (fun t => t == { block .be 0 [] with hdrPlen := 243#32, status := 0x90000004#32 }) = true ∧
    after (exec .frEncode { block .be 0 [] with params := ⟨0#32, .be, 256#32⟩ })
      (fun t => t.bufBytes 0 14 == List.replicate 12 0x00#8 ++ [0xFF#8, 0xFF#8] && t.hdrCksum == 0xFFFF#16 &&
        t.acc == 0#16) = true := by decide +kernel

/-- D1: the good frame. -/
theorem test_frDecode_ok :
    after (exec .frDecode startD)
      (fun t => t.status == 0x00000010#32 && t.acc == 0xFFFF#16 && t.hdrCmdstat == 2#32 && t.hdrPlen == 5#32 &&
        t.hdrCksum == 0x9E44#16) = true := by decide +kernel

/-- D2, D4, D5, D8, D8a, D9, D10, D11, D12: every verdict, and what it writes. -/
theorem test_frDecode_verdicts :
    verdict (exec .frDecode { startD with frameLen := 18#32 }) 2#32 0#16 = true ∧
    verdict (exec .frDecode { startD with frameLen := 4#32 }) 2#32 0#16 = true ∧
    verdict (exec .frDecode { startD with frameLen := 3#32 }) 2#32 0#16 = true ∧
    verdict (exec .frDecode (startD.flipBit 0 0)) 1#32 0#16 = true ∧
    verdict (exec .frDecode { startD.flipBit 0 0 with frameLen := 3#32 }) 2#32 0#16 = true ∧
    verdict (exec .frDecode (startD.flipBit 11 0)) 2#32 0#16 = true ∧
    verdict (exec .frDecode (startD.flipBit 14 7)) 3#32 0x8000#16 = true ∧
    verdict (exec .frDecode (startD.flipBit 12 0)) 3#32 0x0100#16 = true ∧
    verdict (exec .frDecode { startD.memWrite 8 4 0xFFFFFFF2 with frameLen := 14#32 }) 2#32 0#16 = true := by decide +kernel

/-! ### Host accesses -/

/-- E1: an illegal command from reset. E6: a good command leaves the sticky bits. -/
theorem test_illegal_command :
    after (step ((block .be 0 []).facing (.regWrite 32 0x00#8 0x00000012#32) [.access (Access.wr .cmd 1#32)]))
      (fun t => t.status == 0xA0000005#32 && after (step t) (fun u => u.status == 0xA0000000#32)) = true := by decide

/-- E3, E4, E5: bus errors. -/
theorem test_bus_errors :
    after (step ((block .be 0 []).facing (.regWrite 32 0x0C#8 5#32) []))
      (fun t => t.status == 0xC0000000#32 && t.acc == 0#16) = true ∧
    after (step ((block .be 0 []).facing (.bufWrite 8 256#32 0#8) []))
      (fun t => t.status == 0xC0000000#32 && t.pktBuf == []) = true ∧
    after (step ((block .be 0 []).facing (.regRead 32 0x30#8) []))
      (fun t => t.status == 0xC0000000#32 && t.reply == .busError) = true := by decide

/-- R55, R52: a register and a buffer byte written by the host, and read back. -/
theorem test_write_then_read :
    after (run 2 { block .le 0 [] with inputs := hostProgram [.wr .hdrPlen 243#32, .rd .hdrPlen] })
      (fun t => t.reply == .word 243#32) = true ∧
    after (run 2 { block .le 0 [] with inputs := hostProgram [.wb 255#32 0x7E#8, .rb 255#32] })
      (fun t => t.reply == .byte 0x7E#8 && t.pktBuf == [(255, 0x7E#8)]) = true := by decide

/-- R81, R82: the transactions of the host's lines, as the programs of 95_test_vectors.md encode them. -/
theorem test_host_lines :
    HostLine.expand (.command .frDecode) = [.regWrite 32 0x00#8 0x00000011#32] ∧
    HostLine.expand (.addb 0x03#8) = [.regWrite 32 0x08#8 0x00000003#32, .regWrite 32 0x00#8 0x00000003#32] ∧
    HostLine.expand (.wbs 14#32 [0x68#8, 0x65#8]) = [.bufWrite 8 0x0000000E#32 0x68#8, .bufWrite 8 0x0000000F#32 0x65#8] := by
  decide

/-- Log entry 20 (the model's choice): a WBS line past index 0xFFFFFFFF goes on at index 0. -/
theorem test_wbs_past_the_last_index :
    HostLine.expand (.wbs 0xFFFFFFFF#32 [0x01#8, 0x02#8]) = [.bufWrite 8 0xFFFFFFFF#32 0x01#8, .bufWrite 8 0x00000000#32 0x02#8] := by
  decide

/-- R62, R7: a second host is refused by name; with no access there is no step. -/
theorem test_stops :
    step { block .be 0 [] with inputs := [.secondHost (Access.rd .acc)] } = .refused .secondHost ∧
    step (block .be 0 []) = .fault .noHostAccess := ⟨rfl, rfl⟩

/-! ### Witnesses: for each statement with hypotheses, a case that meets them all -/

/-- DecodeSelectsExactlyTheOpcodeMap, both clauses. -/
theorem witness_opcode_map : (0x00000011#32, Instr.frDecode) ∈ opcodeMap ∧ ∀ i, (0x00000012#32, i) ∉ opcodeMap := by
  refine ⟨by decide, fun i => ?_⟩
  cases i <;> decide

/-- DecodeInvertsEncode, with its inner hypotheses. -/
theorem witness_encodings :
    Instr.wellFormed .frEncode = true ∧ decodeCmd 0x00000010#32 = .command .frEncode ∧
    decodeTableWord 32 0x00000010 = some .frEncode := by decide

/-- IllegalWordRaisesBadcmd: a word of each range, at its edges. -/
theorem witness_illegal_words :
    ([0x00000000#32, 0x00000005#32, 0x0000000F#32, 0x00000012#32, 0x000000FF#32, 0x00000101#32, 0x80000011#32].all fun w =>
      decodeCmd w == .illegal .mustBeZero || decodeCmd w == .illegal .unassignedOpcode) = true := by decide

/-- StepRunsTheDecodedCommand. -/
theorem witness_decoded_command : decodeCmd 0x00000004#32 = .command .ckBuf := by decide

/-- ConstantRegistersKeepTheParameters, its write clause: each of the three offsets, with bits of STATUS set before. -/
theorem witness_constant_writes :
    ([0x24#8, 0x28#8, 0x2C#8].all fun off =>
      after (step ({ block .le 0 [] with status := 0x20000005#32 }.facing (.regWrite 32 off 7#32) []))
        (fun t => t.status == 0xE0000005#32 && t.params == (block .le 0 []).params)) = true := by decide

/-- RegisterReadsReturnTheirValues: the first and the last row of the map, the last in both orders. -/
theorem witness_register_table :
    (0x00#8, 0#32) ∈ registerTable (block .be 0 []) ∧ (0x2C#8, 0#32) ∈ registerTable (block .be 0 []) ∧
    (0x2C#8, 1#32) ∈ registerTable (block .le 0 []) := by decide

/-- BusErrorsAreExactlyTheListedAccesses and ReadsHaveNoSideEffect: REG accesses on both sides of each boundary. -/
theorem witness_bus_errors_reg :
    ¬ IsBusError (block .be 0 []) (.regRead 32 0x2C#8) ∧ IsBusError (block .be 0 []) (.regRead 32 0x30#8) ∧
    IsBusError (block .be 0 []) (.regRead 32 0x2D#8) ∧ IsBusError (block .be 0 []) (.regRead 16 0x2C#8) ∧
    ¬ IsBusError (block .be 0 []) (.regWrite 32 0x1C#8 7#32) ∧ IsBusError (block .be 0 []) (.regWrite 32 0x20#8 7#32) ∧
    ¬ IsBusError (block .be 0 []) (.regWrite 32 0x00#8 7#32) ∧ IsBusError (block .be 0 []) (.regWrite 8 0x00#8 1#32) ∧
    IsBusError (block .be 0 []) (.regWrite 32 0xFC#8 7#32) := by decide

/-- The same for BUF accesses; the in-range ones are those of BufferAccessesReachOneByte and BufferReadSeesTheLastWrite. -/
theorem witness_bus_errors_buf :
    ¬ IsBusError (block .be 0 []) (.bufRead 8 255#32) ∧ IsBusError (block .be 0 []) (.bufRead 8 256#32) ∧
    IsBusError (block .be 0 []) (.bufRead 32 0#32) ∧ ¬ IsBusError (block .be 0 []) (.bufWrite 8 255#32 1#8) ∧
    IsBusError (block .be 0 []) (.bufWrite 8 256#32 1#8) ∧ IsBusError (block .be 0 []) (.bufWrite 16 0#32 1#8) ∧
    (255#32).toNat < (block .be 0 []).params.bufSize.toNat ∧ (0#32).toNat < (block .be 0 []).params.bufSize.toNat := by decide

/-- CkBufAddsTheBuffer and ClearAndSumShowVerification: the largest FRAME_LEN that fits, the smallest that does not, and bytes
that verify. -/
theorem witness_ckBuf :
    ({ block .be 0 [] with frameLen := 256#32 } : State).frameLen.toNat ≤ (block .be 0 []).params.bufSize.toNat ∧
    (block .be 0 []).params.bufSize.toNat < ({ block .be 0 [] with frameLen := 257#32 } : State).frameLen.toNat ∧
    (block .be 0 [0xFF#8, 0xFF#8, 0xFF#8, 0xFF#8]).Verifies 4 ∧ (block .be 0 []).acc = 0#16 := by decide

/-- OnesAddLaws and OnesSumClosedForm: a non-zero operand, a sum that folds, a permuted list. -/
theorem witness_ones :
    0x1234#16 ≠ 0x0000#16 ∧ exactSum [0xFFFF#16, 0x0001#16] ≠ 0 ∧ 1 % 0xFFFF = exactSum [0xFFFF#16, 0x0001#16] % 0xFFFF ∧
    [0x0001#16, 0x0002#16].Perm [0x0002#16, 0x0001#16] := by decide

/-- LittleEndianSumIsTheSwappedSum: an even sequence and the two orders; WordViewOfTheBuffer: an odd length. -/
theorem witness_orders :
    [0x12#8, 0x34#8].length % 2 = 0 ∧ (block .be 0 []).params.byteOrder = .be ∧ (block .le 0 []).params.byteOrder = .le ∧
    3 % 2 = 1 ∧ 0 < 3 / 2 := by decide

/-- SumSeesEverySingleBitFlip: a frame that verifies, its last bit, and a non-zero sum with a zero word. -/
theorem witness_flip :
    18 < 19 ∧ 7 < 8 ∧ (block .be 0 frameF2).Verifies 19 ∧ onesSum ([0x0001#16] ++ 0x0000#16 :: []) ≠ 0x0000#16 := by
  decide +kernel

/-- FrEncodeStampsTheFrame, EncodedFrameVerifies, EncodeThenDecodeRoundTrip: the largest payload that fits and the smallest that
does not. -/
theorem witness_frEncode_sizes :
    14 + ({ block .be 0 [] with hdrPlen := 242#32 } : State).hdrPlen.toNat ≤ (block .be 0 []).params.bufSize.toNat ∧
    (block .be 0 []).params.bufSize.toNat < 14 + ({ block .be 0 [] with hdrPlen := 243#32 } : State).hdrPlen.toNat ∧
    14 + (beforeHello .le).hdrPlen.toNat ≤ (beforeHello .le).params.bufSize.toNat := by decide

/-- FrEncodeStampsTheFrame, its last clause: a stored checksum of 0xFFFF. -/
theorem witness_zero_frame :
    after (exec .frEncode { block .le 0 [] with params := ⟨0#32, .le, 14#32⟩ }) (fun t => t.hdrCksum == 0xFFFF#16) = true := by
  decide +kernel

/-- FrDecodeAcceptsExactlyTheCheckedFrames: a frame that passes the three checks; FailedDecodeExportsNothing: one that does not. -/
theorem witness_checks :
    (startD.SigCheck 19 ∧ startD.LenCheck 19 ∧ startD.CksumCheck 19) ∧
    ¬ ((startD.flipBit 14 7).SigCheck 19 ∧ (startD.flipBit 14 7).LenCheck 19 ∧ (startD.flipBit 14 7).CksumCheck 19) ∧
    after (exec .frDecode startD) (fun t => statusResult t.status == 0#4) = true ∧
    after (exec .frDecode (startD.flipBit 11 0)) (fun t => statusResult t.status == 2#4) = true := by decide +kernel

/-- WrongSignatureIsRejected, at the shortest length it speaks of. -/
theorem witness_wrong_signature :
    4 ≤ ({ startD.flipBit 0 0 with frameLen := 4#32 } : State).frameLen.toNat ∧
    ({ startD.flipBit 0 0 with frameLen := 4#32 } : State).field32 0 ≠ startD.params.signature := by decide +kernel

/-- LengthMismatchIsRejected: a length one off, and one below 4. -/
theorem witness_other_length :
    14 + (beforeHello .be).hdrPlen.toNat ≤ (beforeHello .be).params.bufSize.toNat ∧
    after (exec .frEncode (beforeHello .be)) (fun t => t.frameLen != 18#32 && t.frameLen != 20#32 && t.frameLen != 3#32) = true := by
  decide +kernel

/-- SingleBitFlipIsRejected: the bytes where its ranges meet, and the last one. -/
theorem witness_flipped_bytes :
    14 + (beforeHello .be).hdrPlen.toNat ≤ (beforeHello .be).params.bufSize.toNat ∧
    ∀ k ∈ [0, 3, 4, 7, 8, 11, 12, 18], k < 14 + (beforeHello .be).hdrPlen.toNat := by decide

/-- SingleBitFlipIsRejected, computed where its ranges meet. -/
theorem witness_flip_verdicts :
    after (exec .frEncode (beforeHello .be)) (fun t =>
      [(3, 1#4), (4, 3#4), (7, 3#4), (8, 2#4), (11, 2#4), (12, 3#4), (18, 3#4)].all fun c =>
        after (exec .frDecode (t.flipBit c.1 0)) (fun u => statusResult u.status == c.2)) = true := by decide +kernel

/-- The state before FR_ENCODE of the alias vectors. -/
def beforeAlias : State := { block .be 14 [0xE2#8, 0x1B#8] with hdrPlen := 2#32 }

/-- ChecksumAliasIsAccepted (A1, A2). -/
theorem witness_alias :
    14 + beforeAlias.hdrPlen.toNat ≤ beforeAlias.params.bufSize.toNat ∧
    after (exec .frEncode beforeAlias) (fun t =>
      t.acc == 0xFFFF#16 && t.field16 12 == 0#16 &&
        after (exec .frDecode (t.memWrite 12 2 0xFFFF)) (fun u => u.status == 0x00000010#32 && u.hdrCksum == 0xFFFF#16)) = true := by
  decide +kernel

/-- CommandsReadOnlyTheirBytes: two states that differ in a byte outside the payload, and in one outside the frame. -/
theorem witness_same_but_buffer :
    SameButBuffer 14 19 (beforeHello .be) ((beforeHello .be).putByte 0 0x77#8) ∧
    SameButBuffer 0 (min startD.frameLen.toNat startD.params.bufSize.toNat) startD (startD.putByte 19 0x77#8) ∧
    startD.params.wf ∧ 14 + (beforeHello .be).hdrPlen.toNat = 19 := by
  refine ⟨⟨by decide, fun i h₁ _ => ?_⟩, ⟨by decide, fun i _ h₂ => ?_⟩, by decide, by decide⟩
  · exact State.bufByte_putByte_ne _ _ (by omega)
  · have h : min startD.frameLen.toNat startD.params.bufSize.toNat = 19 := by decide
    exact State.bufByte_putByte_ne _ _ (by omega)

/-- ValidFollowsTheLastCommand and StickyBitsStayUntilReset: a write to CMD, an access that is none, a sticky bit that is set. -/
theorem witness_status :
    Access.wr .cmd 0x00000011#32 = .regWrite 32 0x00#8 0x00000011#32 ∧
    (∀ w, Access.wr .frameLen 4#32 ≠ .regWrite 32 0x00#8 w) ∧
    (0xA0000005#32).getLsbD 29 = true ∧ (0xA0000005#32).getLsbD 28 = false := by
  refine ⟨rfl, fun w h => ?_, by decide, by decide⟩
  simp [Access.wr, Reg.offset] at h

/-- StickyBitsChangeNoBehaviour: the sticky bits set in one of two states that step on. -/
theorem witness_sticky_copy :
    (∀ k, k < 28 → (0xF0000004#32).getLsbD k = (0x00000004#32).getLsbD k) ∧
    after (step ({ block .be 0 [] with status := 0x00000004#32 }.facing (Access.wr .cmd 1#32) [])) (fun _ => true) = true := by
  decide

/-- NoFaultAtTheEndMeansNoFaultBefore. -/
theorem witness_clean_run :
    after (run 2 { block .be 0 [] with inputs := hostProgram [.addw 0xF203#16] }) (fun t => !statusFault t.status) = true ∧
    Input.reset ∉ (hostProgram [.addw 0xF203#16]).take 2 := by decide

/-- ResetInputRestoresTheResetValues, its second clause. -/
theorem witness_reset_clears :
    (0x90000004#32).getLsbD 28 = true ∧
    after (step { block .be 0 [] with status := 0x90000004#32, inputs := [.reset] }) (fun t => !t.status.getLsbD 28) = true := by
  decide

/-- StepKeepsTheInvariant: a state that meets the invariant, with a buffer, a sticky bit and VALID in use. -/
theorem witness_invariant :
    ({ startD with status := 0xA0000010#32, inputs := [.access (Access.wr .cmd 0x00000011#32)] } : State).Inv ∧
    after (step { startD with status := 0xA0000010#32, inputs := [.access (Access.wr .cmd 0x00000011#32)] })
      (fun _ => true) = true := by decide +kernel

/-- DataIsOnlyAnOperand: other high bits of DATA. -/
theorem witness_data :
    (0xABCD1234#32).toNat % 65536 = (0x00001234#32).toNat % 65536 ∧ (0xABCDFF34#32).toNat % 256 = (0x00001234#32).toNat % 256 := by
  decide

/-- OnlyTheirWritersWrite: each field is changed by a writer of its own. -/
theorem witness_writers :
    after (step ((beforeHello .be).facing (Access.wr .cmd 0x00000010#32) []))
      (fun t => t.pktBuf != (beforeHello .be).pktBuf && t.acc != 0#16 && t.frameLen != 0#32 && t.hdrCksum != 0#16) = true ∧
    after (step (startD.facing (Access.wr .cmd 0x00000011#32) []))
      (fun t => t.hdrCmdstat != startD.hdrCmdstat && t.hdrPlen != startD.hdrPlen) = true ∧
    after (step (startD.facing (Access.wr .data 5#32) [])) (fun t => t.data != startD.data) = true := by decide +kernel

/-- OnlyTheirWritersWrite, the clause for STATUS: changed by an illegal word, by a bad frame, and by a bus error. -/
theorem witness_status_writers :
    after (step (startD.facing (Access.wr .cmd 0x00000012#32) [])) (fun t => t.status != startD.status) = true ∧
    after (step ((startD.flipBit 0 0).facing (Access.wr .cmd 0x00000011#32) [])) (fun t => t.status != startD.status) = true ∧
    after (step (startD.facing (.bufWrite 8 256#32 0#8) [])) (fun t => t.status != startD.status) = true ∧
    IsBusError startD (.bufWrite 8 256#32 0#8) := by decide +kernel

/-- EqualBuffersAreEqualData: a canonical buffer, and the same bytes written in another order. -/
theorem witness_canonical :
    Memory.wf 256 (Memory.put (Memory.put [] 1 0x22#8) 0 0x11#8) ∧ Memory.wf 256 (cellsFrom 0 [0x11#8, 0x22#8]) ∧
    Memory.put (Memory.put [] 1 0x22#8) 0 0x11#8 = cellsFrom 0 [0x11#8, 0x22#8] := by decide

/-- FieldAccessFollowsTheByteOrder: both orders, both widths, a byte on either side of the field. -/
theorem witness_fields :
    (block .be 0 frameF2).memRead 8 4 = 5 ∧ (block .le 0 frameF5).memRead 8 4 = 5 ∧
    (block .be 0 frameF2).memRead 12 2 = 0x9E44 ∧ (block .le 0 frameF5).memRead 12 2 = 0xA141 ∧ 11 < 12 ∧ 12 + 2 ≤ 14 := by
  decide +kernel

/-- ReceivedDatagramIsStored: a datagram one byte longer than the smallest buffer. -/
theorem witness_datagram :
    (List.replicate 15 0x7E#8).length < 2 ^ 32 ∧
    after (run 15 { block .be 0 [] with
        params := ⟨0#32, .be, 14#32⟩, inputs := (receiveDatagram 14#32 (List.replicate 15 0x7E#8)).map .access })
      (fun t => t.frameLen == 15#32 && t.pktBuf.length == 14 && t.status == 0#32) = true := by decide +kernel

end Sys2Proof.Tests
end

/-! ### The invariant of the machine: holds at reset, kept by every step (spec/00_scope.md R5, R7)

`State.Inv` speaks of `params`, `status` and `pktBuf` alone, so an update of any other field keeps it by definition. What is
left is one rule per operation that writes STATUS or the buffer; the commands, the host's accesses and the step are assembled
from these. -/

namespace Sys2Proof.Machine

/-! #### STATUS -/

theorem ResultCode.code_le_five (c : ResultCode) : c.code.toNat ≤ 5 := by
  cases c <;> decide

theorem statusWf_zero : StatusWf 0#32 := by decide

/-- A write to STATUS that keeps the bits above VALID keeps STATUS well formed when RESULT and VALID stay so. -/
theorem StatusWf.of_same_high {a b : Word} (h : StatusWf a) (hres : (statusResult b).toNat ≤ 5)
    (hval : statusValid b = true → statusResult b = ResultCode.ok.code)
    (hhigh : ∀ k, 5 ≤ k → b.getLsbD k = a.getLsbD k) : StatusWf b := by
  obtain ⟨-, -, hreserved, hfault⟩ := h
  refine ⟨hres, hval, (statusReserved_congr fun k hk _ => hhigh k hk).trans hreserved, ?_⟩
  calc statusFault b = statusFault a := hhigh 31 (by decide)
    _ = (statusFOversize a || statusFCmd a || statusFBus a) := hfault
    _ = (statusFOversize b || statusFCmd b || statusFBus b) := by
      simp only [statusFOversize, statusFCmd, statusFBus, hhigh, Nat.reduceLeDiff]

/-- The same for a write that also sets FAULT and one of its three causes, bits 28 to 30 (R24, R26). -/
theorem StatusWf.of_fault_set {a b : Word} {cause : Nat} (h : StatusWf a) (hres : (statusResult b).toNat ≤ 5)
    (hval : statusValid b = true → statusResult b = ResultCode.ok.code) (hcause : cause = 28 ∨ cause = 29 ∨ cause = 30)
    (hhigh : ∀ k, 5 ≤ k → b.getLsbD k = (k == cause || k == 31 || a.getLsbD k)) : StatusWf b := by
  obtain ⟨-, -, hreserved, -⟩ := h
  refine ⟨hres, hval, ?_, ?_⟩
  · refine (statusReserved_congr fun k hk hk' => ?_).trans hreserved
    have hne : k ≠ cause ∧ k ≠ 31 := by omega
    simp [hhigh k hk, hne]
  · have hfault : statusFault b = true := (hhigh 31 (by decide)).trans (by simp)
    have hset : b.getLsbD cause = true := by simp [hhigh cause (by omega)]
    rw [hfault]
    rcases hcause with rfl | rfl | rfl <;>
      simp only [statusFOversize, statusFCmd, statusFBus, hset, Bool.true_or, Bool.or_true]

/-- A command that completes leaves STATUS well formed (R25). -/
theorem StatusWf.complete {s : State} (h : StatusWf s.status) (v : Bool) : StatusWf (s.complete v).status := by
  have hres : statusResult (s.complete v).status = ResultCode.ok.code := by simp
  exact h.of_same_high (hres ▸ ResultCode.code_le_five _) (fun _ => hres) fun _ hk => getLsbD_complete s v hk

/-- A raised error leaves STATUS well formed: VALID is 0, and a fault sets its cause together with FAULT (R171 to R174). -/
theorem StatusWf.raise {s : State} (h : StatusWf s.status) (e : ResultCode) :
    StatusWf (s.clearValid.raise e).status := by
  have hres : (statusResult (s.clearValid.raise e).status).toNat ≤ 5 := by simpa using e.code_le_five
  have hval : statusValid (s.clearValid.raise e).status = true →
      statusResult (s.clearValid.raise e).status = ResultCode.ok.code := by simp
  have hhigh := fun k (hk : 5 ≤ k) => getLsbD_raise s e hk
  cases e with
  | eOversize => exact h.of_fault_set hres hval (.inl rfl) hhigh
  | eBadcmd => exact h.of_fault_set hres hval (.inr (.inl rfl)) hhigh
  | ok | eSig | eLen | eCksum => exact h.of_same_high hres hval (by simpa using hhigh)

/-- A bus error leaves STATUS well formed (R53). -/
theorem StatusWf.busError {s : State} (h : StatusWf s.status) : StatusWf s.busError.status := by
  have ⟨hres, hval, _, _⟩ := h
  exact h.of_fault_set (by simpa using hres) (by simpa using hval) (.inr (.inr rfl))
    fun k _ => getLsbD_busError s k

/-! #### The shared operations -/

theorem Memory.wf_nil (size : Nat) : Memory.wf size [] := ⟨.nil, by simp⟩

theorem State.Inv.complete {s : State} (h : s.Inv) (v : Bool) : (s.complete v).Inv := by
  obtain ⟨hparams, hstatus, hbuf⟩ := h
  exact ⟨hparams, hstatus.complete v, hbuf⟩

theorem State.Inv.raise {s : State} (h : s.Inv) (e : ResultCode) : (s.clearValid.raise e).Inv := by
  obtain ⟨hparams, hstatus, hbuf⟩ := h
  exact ⟨hparams, hstatus.raise e, hbuf⟩

theorem State.Inv.busError {s : State} (h : s.Inv) : s.busError.Inv := by
  obtain ⟨hparams, hstatus, hbuf⟩ := h
  exact ⟨hparams, hstatus.busError, hbuf⟩

theorem State.Inv.putByte {s : State} (h : s.Inv) {i : Nat} (b : Byte) (hi : i < s.params.bufSize.toNat) :
    (s.putByte i b).Inv := by
  obtain ⟨hparams, hstatus, hbuf⟩ := h
  exact ⟨hparams, hstatus, Memory.put_wf b hbuf hi⟩

/-- The field lies inside the header, which every buffer holds (R5). -/
theorem State.Inv.memWrite {s : State} (h : s.Inv) {i n : Nat} (v : Nat) (hi : i + n ≤ 14) : (s.memWrite i n v).Inv := by
  obtain ⟨hparams, hstatus, hbuf⟩ := h
  have hsize : i + n ≤ s.params.bufSize.toNat := hi.trans hparams
  exact ⟨by simpa using hparams, by simpa using hstatus, by simpa using State.memWrite_wf v hbuf hsize⟩

theorem State.Inv.applyReset {s : State} (h : s.Inv) : s.applyReset.Inv := by
  obtain ⟨hparams, -, -⟩ := h
  exact ⟨hparams, statusWf_zero, Memory.wf_nil _⟩

/-! #### The commands -/

theorem State.Inv.setAccOk {s : State} (h : s.Inv) (v : Half) : (s.setAccOk v).Inv :=
  State.Inv.complete (s := { s with acc := v }) h false

theorem State.Inv.ckBufState {s : State} (h : s.Inv) : (ckBufState s).Inv := by
  obtain ⟨-, heq⟩ | ⟨-, heq⟩ := ckBufState_cases s
  · exact heq ▸ h.raise .eOversize
  · exact heq ▸ h.setAccOk _

theorem State.Inv.stampHeader {s : State} (h : s.Inv) : s.stampHeader.Inv :=
  (((h.memWrite _ (by decide)).memWrite _ (by decide)).memWrite _ (by decide)).memWrite _ (by decide)

theorem State.Inv.stampChecksum {s : State} (h : s.Inv) (len : Nat) : (s.stampChecksum len).Inv :=
  h.memWrite (i := 12) (n := 2) (~~~ s.frameSum len).toNat (by decide)

theorem State.Inv.frEncodeState {s : State} (h : s.Inv) : (frEncodeState s).Inv := by
  obtain ⟨-, heq⟩ | ⟨-, heq⟩ := frEncodeState_cases s
  · exact heq ▸ h.raise .eOversize
  · exact heq ▸ (h.stampHeader.stampChecksum _).complete false

theorem State.Inv.checkSum {s : State} (h : s.Inv) (len : Nat) : (s.checkSum len).Inv := by
  have hacc : ({ s with acc := s.frameSum len } : State).Inv := h
  obtain ⟨-, heq⟩ | ⟨-, heq⟩ := s.checkSum_cases len
  · exact heq ▸ hacc.raise .eCksum
  · have hextracted : ({ s with acc := s.frameSum len } : State).extractHeader.Inv := hacc
    exact heq ▸ hextracted.complete true

theorem State.Inv.frDecodeState {s : State} (h : s.Inv) : (frDecodeState s).Inv := by
  obtain ⟨-, heq⟩ | ⟨-, -, heq⟩ | ⟨-, -, -, heq⟩ | ⟨-, -, -, -, heq⟩ := frDecodeState_cases s
  · exact heq ▸ h.raise .eLen
  · exact heq ▸ h.raise .eSig
  · exact heq ▸ h.raise .eLen
  · exact heq ▸ h.checkSum _

/-- Every command keeps the invariant. -/
theorem exec_keeps_inv {i : Instr} {s t : State} (h : s.Inv) (hexec : exec i s = .next t) : t.Inv := by
  cases i with
  | ckClr => cases hexec; exact h.setAccOk _
  | ckAdd16 => cases hexec; exact h.setAccOk _
  | ckAdd8h => cases hexec; exact h.setAccOk _
  | ckBuf => cases hexec; exact h.ckBufState
  | frEncode => cases hexec; exact h.frEncodeState
  | frDecode => cases hexec; exact h.frDecodeState

/-! #### The host's accesses -/

/-- A write to a register other than CMD stores outside STATUS and the buffer, or is a bus error (R53, R55). -/
theorem State.Inv.writeReg {s : State} (h : s.Inv) (r : Reg) (v : Word) : (s.writeReg r v).Inv := by
  cases r with
  | cmd | data | frameLen | hdrCmdstat | hdrPlen => exact h
  | status | acc | ckResult | hdrCksum | sig | bufsz | config => exact h.busError

/-- A selected index is inside the buffer (R53). -/
theorem State.lt_of_bufSelect_eq_some {s : State} {width k : Nat} {i : Word} (h : s.bufSelect width i = some k) :
    k < s.params.bufSize.toNat := by
  obtain ⟨⟨-, hlt⟩, rfl⟩ : (width = 8 ∧ i.toNat < s.params.bufSize.toNat) ∧ i.toNat = k := by
    simpa [State.bufSelect] using h
  exact hlt

/-- Every access that performs no command keeps the invariant. -/
theorem State.Inv.plainAccess {s : State} (h : s.Inv) (a : Access) : (s.plainAccess a).Inv := by
  cases a with
  | regRead width off =>
    simp only [State.plainAccess]
    split
    · exact h
    · exact h.busError
  | regWrite width off v =>
    simp only [State.plainAccess]
    split
    · exact h.writeReg _ v
    · exact h.busError
  | bufRead width i =>
    simp only [State.plainAccess]
    split
    · exact h
    · exact h.busError
  | bufWrite width i b =>
    simp only [State.plainAccess]
    split
    next k hk => exact h.putByte b (State.lt_of_bufSelect_eq_some hk)
    next => exact h.busError

/-! #### The step, and reset -/

/-- Settles O47: a step is a command, an illegal word, a plain access or reset, and each of the four keeps the invariant. -/
theorem stepKeepsTheInvariant : Obligations.StepKeepsTheInvariant := by
  intro s t h hstep
  have htaken : s.takeInput.Inv := h
  obtain ⟨a, w, i, -, -, -, hexec⟩ | ⟨a, w, why, -, -, -, rfl⟩ | ⟨a, -, -, rfl⟩ | ⟨-, rfl⟩ := step_cases hstep
  · exact exec_keeps_inv htaken hexec
  · exact htaken.raise .eBadcmd
  · exact htaken.plainAccess a
  · exact htaken.applyReset

/-- The configured BUF_SIZE is in its range (R5). -/
theorem Config.params_wf : Config.params.wf := by
  have hroom := Config.payloadRoom.isLt
  simp only [Params.wf, Config.params, Config.bufSize, BitVec.toNat_ofNat]
  omega

/-- Settles O46: the configured BUF_SIZE is at least 14, STATUS is 0, and no byte of the buffer is written yet. -/
theorem resetMeetsTheInvariant : Obligations.ResetMeetsTheInvariant :=
  ⟨Config.params_wf, statusWf_zero, Memory.wf_nil _⟩

end Sys2Proof.Machine

/-! ### The block's state (spec/10_state.md)

Two layers carry these proofs. One says which access reaches what: `accessKind` sorts the host's accesses and one equation per
kind gives the answer. The other says how a command or an access writes STATUS: always by a `WritesStatus` function, and
nothing else of the result depends on STATUS. -/

namespace Sys2Proof.Machine

/-! #### The written bytes in canonical form -/

theorem Memory.get?_eq_none_of_lt {m : List Host.Cell} {i : Nat} (h : ∀ c ∈ m, i < c.1) : Memory.get? m i = none := by
  induction m with
  | nil => rfl
  | cons c m ih =>
    obtain ⟨a, b⟩ := c
    have ha : i < a := h (a, b) (by simp)
    have hm : Memory.get? m i = none := ih fun c hc => h c (by simp [hc])
    simp [Memory.get?, hm, Nat.ne_of_gt ha]

theorem Memory.get?_cons_same (a : Nat) (b : Byte) (m : List Host.Cell) : Memory.get? ((a, b) :: m) a = some b := by
  simp [Memory.get?]

theorem Memory.get?_cons_ne {a i : Nat} (b : Byte) (m : List Host.Cell) (h : a ≠ i) :
    Memory.get? ((a, b) :: m) i = Memory.get? m i := by
  simp [Memory.get?, h]

/-- In a list of rising indices nothing is written below the first. -/
theorem Memory.head_le_of_get?_isSome {a i : Nat} {b v : Byte} {m : List Host.Cell}
    (h : ((a, b) :: m).Pairwise fun c d => c.1 < d.1) (hi : Memory.get? ((a, b) :: m) i = some v) : a ≤ i := by
  obtain ⟨hhead, -⟩ := List.pairwise_cons.mp h
  by_contra hlt
  have hbelow : ∀ c ∈ (a, b) :: m, i < c.1 := by
    simp only [List.forall_mem_cons]
    exact ⟨by omega, fun c hc => (Nat.lt_of_not_le hlt).trans (hhead c hc)⟩
  simp [Memory.get?_eq_none_of_lt hbelow] at hi

/-- Lists of rising indices with the same written bytes are equal. -/
theorem Memory.eq_of_get?_eq {m m' : List Host.Cell} (hm : m.Pairwise fun c d => c.1 < d.1)
    (hm' : m'.Pairwise fun c d => c.1 < d.1) (h : ∀ i, Memory.get? m i = Memory.get? m' i) : m = m' := by
  induction m generalizing m' with
  | nil =>
    cases m' with
    | nil => rfl
    | cons c' m' => simpa [Memory.get?] using h c'.1
  | cons c m ih =>
    obtain ⟨a, b⟩ := c
    cases m' with
    | nil => simpa [Memory.get?] using h a
    | cons c' m' =>
      obtain ⟨a', b'⟩ := c'
      have hget : Memory.get? ((a', b') :: m') a = some b := (h a).symm.trans (get?_cons_same a b m)
      have hget' : Memory.get? ((a, b) :: m) a' = some b' := (h a').trans (get?_cons_same a' b' m')
      obtain rfl : a = a' := Nat.le_antisymm (head_le_of_get?_isSome hm hget') (head_le_of_get?_isSome hm' hget)
      obtain rfl : b = b' := by simpa [Memory.get?] using hget.symm
      obtain ⟨hhead, htail⟩ := List.pairwise_cons.mp hm
      obtain ⟨hhead', htail'⟩ := List.pairwise_cons.mp hm'
      have htails : ∀ i, Memory.get? m i = Memory.get? m' i := fun i => by
        by_cases hi : a = i
        · subst hi
          rw [get?_eq_none_of_lt hhead, get?_eq_none_of_lt hhead']
        · simpa [get?_cons_ne _ _ hi] using h i
      rw [ih htail htail' htails]

/-- Settles O50: the indices rise, so the first cells are the lowest written bytes of the two lists and agree; the rest by
induction. -/
theorem equalBuffersAreEqualData : Obligations.EqualBuffersAreEqualData :=
  fun _ _ _ ⟨hm, _⟩ ⟨hm', _⟩ h => Memory.eq_of_get?_eq hm hm' h

/-! #### What a word written to CMD selects -/

theorem decodeCmd_encode (i : Instr) : decodeCmd (encode i) = .command i := by
  cases i <;> decide

theorem op_eq_of_decodeOp_eq_command {op : Byte} {i : Instr} (h : decodeOp op = .command i) : op = commandOp (encode i) := by
  unfold decodeOp at h
  split_ifs at h <;> cases h <;> assumption

/-- A word with MBZ zero is its opcode. -/
theorem eq_setWidth_commandOp {w : Word} (h : mbzClear w = true) : w = (commandOp w).setWidth 32 := by
  have hmbz : w.extractLsb' 8 24 = 0#24 := by simpa [mbzClear, commandMbz] using h
  have hhigh : w.toNat / 256 % 16777216 = 0 := by
    simpa [BitVec.extractLsb'_toNat, Nat.shiftRight_eq_div_pow] using congrArg BitVec.toNat hmbz
  apply BitVec.eq_of_toNat_eq
  simp only [commandOp, BitVec.toNat_setWidth, BitVec.extractLsb'_toNat, Nat.shiftRight_zero, Nat.reducePow]
  omega

/-- A word selects a command exactly when it is the command's own word (R71, R75). -/
theorem decodeCmd_eq_command_iff {w : Word} {i : Instr} : decodeCmd w = .command i ↔ w = encode i := by
  refine ⟨fun h => ?_, fun h => h ▸ decodeCmd_encode i⟩
  unfold decodeCmd at h
  split at h
  next hmbz =>
    rw [eq_setWidth_commandOp hmbz, op_eq_of_decodeOp_eq_command h]
    cases i <;> decide
  next => cases h

theorem encode_mem_opcodeMap (i : Instr) : (encode i, i) ∈ opcodeMap := by
  cases i <;> decide

theorem State.command_encode (s : State) (i : Instr) : s.command (encode i) = exec i s := by
  simp only [State.command, decodeCmd_encode]

theorem State.command_of_ne_encode {s : State} {w : Word} (h : ∀ i, w ≠ encode i) :
    s.command w = .next s.illegalCommand := by
  cases hw : decodeCmd w with
  | command i => exact absurd (decodeCmd_eq_command_iff.mp hw) (h i)
  | illegal why => simp only [State.command, hw]

/-! #### Which access reaches what (R50 to R53) -/

theorem Reg.eq_offset_of_ofOffset_eq_some :
    ∀ {off : BitVec 8} {r : Reg}, Reg.ofOffset off = some r → off = r.offset := by
  decide

/-- A register is selected by its own offset and by no other (R50, R52). -/
theorem Reg.ofOffset_eq_some_iff {off : BitVec 8} {r : Reg} : Reg.ofOffset off = some r ↔ off = r.offset := by
  refine ⟨Reg.eq_offset_of_ofOffset_eq_some, fun h => ?_⟩
  subst h
  cases r <;> rfl

/-- No register is at an offset exactly when it is misaligned or unmapped (R50, R53). -/
theorem Reg.ofOffset_eq_none_iff :
    ∀ {off : BitVec 8}, Reg.ofOffset off = none ↔ off.toNat % 4 ≠ 0 ∨ 0x30 ≤ off.toNat := by
  decide

theorem regSelect_eq_some_iff {width : Nat} {off : BitVec 8} {r : Reg} :
    regSelect width off = some r ↔ width = 32 ∧ off = r.offset := by
  by_cases h : width = 32 <;> simp [regSelect, h, Reg.ofOffset_eq_some_iff]

theorem regSelect_eq_none_iff {width : Nat} {off : BitVec 8} :
    regSelect width off = none ↔ width ≠ 32 ∨ off.toNat % 4 ≠ 0 ∨ 0x30 ≤ off.toNat := by
  by_cases h : width = 32 <;> simp [regSelect, h, Reg.ofOffset_eq_none_iff]

theorem State.bufSelect_eq_some_iff {s : State} {width k : Nat} {i : Word} :
    s.bufSelect width i = some k ↔ (width = 8 ∧ i.toNat < s.params.bufSize.toNat) ∧ i.toNat = k := by
  simp [State.bufSelect]

theorem State.bufSelect_eq_none_iff {s : State} {width : Nat} {i : Word} :
    s.bufSelect width i = none ↔ width ≠ 8 ∨ s.params.bufSize.toNat ≤ i.toNat := by
  by_cases h : width = 8 <;> simp [State.bufSelect, h]

/-- The kinds of host access: a command or an illegal word written to CMD, a read, a write that stores, or a bus error
(R52, R53). -/
inductive AccessKind (s : State) : Access → Prop where
  | command (i : Instr) : AccessKind s (.regWrite 32 0x00#8 (encode i))
  | illegal (w : Word) (h : ∀ i, w ≠ encode i) : AccessKind s (.regWrite 32 0x00#8 w)
  | readReg (r : Reg) : AccessKind s (.regRead 32 r.offset)
  | storeData (v : Word) : AccessKind s (.regWrite 32 0x08#8 v)
  | storeFrameLen (v : Word) : AccessKind s (.regWrite 32 0x14#8 v)
  | storeHdrCmdstat (v : Word) : AccessKind s (.regWrite 32 0x18#8 v)
  | storeHdrPlen (v : Word) : AccessKind s (.regWrite 32 0x1C#8 v)
  | readByte (i : Word) (h : i.toNat < s.params.bufSize.toNat) : AccessKind s (.bufRead 8 i)
  | storeByte (i : Word) (b : Byte) (h : i.toNat < s.params.bufSize.toNat) : AccessKind s (.bufWrite 8 i b)
  | busError (a : Access) (h : IsBusError s a) : AccessKind s a

theorem accessKind_regWrite (s : State) (r : Reg) (v : Word) : AccessKind s (.regWrite 32 r.offset v) := by
  have hreadOnly (h : r.offset.toNat ∈ readOnlyOffsets) : AccessKind s (.regWrite 32 r.offset v) :=
    .busError _ (.inr (.inr (.inr h)))
  cases r with
  | cmd =>
    by_cases h : ∃ i, v = encode i
    · obtain ⟨i, rfl⟩ := h
      exact .command i
    · exact .illegal v fun i hi => h ⟨i, hi⟩
  | data => exact .storeData v
  | frameLen => exact .storeFrameLen v
  | hdrCmdstat => exact .storeHdrCmdstat v
  | hdrPlen => exact .storeHdrPlen v
  | status | acc | ckResult | hdrCksum | sig | bufsz | config => exact hreadOnly (by decide)

/-- Every access is of one of the kinds. -/
theorem accessKind (s : State) (a : Access) : AccessKind s a := by
  cases a with
  | regRead width off =>
    cases h : regSelect width off with
    | none => exact .busError _ (regSelect_eq_none_iff.mp h)
    | some r =>
      obtain ⟨rfl, rfl⟩ := regSelect_eq_some_iff.mp h
      exact .readReg r
  | regWrite width off v =>
    cases h : regSelect width off with
    | none =>
      have hnone := regSelect_eq_none_iff.mp h
      exact .busError _ (by simp only [IsBusError]; tauto)
    | some r =>
      obtain ⟨rfl, rfl⟩ := regSelect_eq_some_iff.mp h
      exact accessKind_regWrite s r v
  | bufRead width i =>
    cases h : s.bufSelect width i with
    | none => exact .busError _ (State.bufSelect_eq_none_iff.mp h)
    | some k =>
      obtain ⟨⟨rfl, hlt⟩, -⟩ := State.bufSelect_eq_some_iff.mp h
      exact .readByte i hlt
  | bufWrite width i b =>
    cases h : s.bufSelect width i with
    | none => exact .busError _ (State.bufSelect_eq_none_iff.mp h)
    | some k =>
      obtain ⟨⟨rfl, hlt⟩, -⟩ := State.bufSelect_eq_some_iff.mp h
      exact .storeByte i b hlt

/-! #### What each kind of access answers -/

theorem State.hostAccess_command (s : State) (i : Instr) :
    s.hostAccess (.regWrite 32 0x00#8 (encode i)) = exec i s := s.command_encode i

theorem State.hostAccess_illegal {s : State} {w : Word} (h : ∀ i, w ≠ encode i) :
    s.hostAccess (.regWrite 32 0x00#8 w) = .next s.illegalCommand := State.command_of_ne_encode h

theorem State.hostAccess_readReg (s : State) (r : Reg) :
    s.hostAccess (.regRead 32 r.offset) = .next { s with reply := .word (s.readReg r) } := by
  have h : regSelect 32 r.offset = some r := regSelect_eq_some_iff.mpr ⟨rfl, rfl⟩
  simp [State.hostAccess, Access.commandWord?, State.plainAccess, h]

theorem State.hostAccess_storeData (s : State) (v : Word) :
    s.hostAccess (.regWrite 32 0x08#8 v) = .next { s with data := v } := rfl

theorem State.hostAccess_storeFrameLen (s : State) (v : Word) :
    s.hostAccess (.regWrite 32 0x14#8 v) = .next { s with frameLen := v } := rfl

theorem State.hostAccess_storeHdrCmdstat (s : State) (v : Word) :
    s.hostAccess (.regWrite 32 0x18#8 v) = .next { s with hdrCmdstat := v } := rfl

theorem State.hostAccess_storeHdrPlen (s : State) (v : Word) :
    s.hostAccess (.regWrite 32 0x1C#8 v) = .next { s with hdrPlen := v } := rfl

theorem State.hostAccess_readByte {s : State} {i : Word} (h : i.toNat < s.params.bufSize.toNat) :
    s.hostAccess (.bufRead 8 i) = .next { s with reply := .byte (s.bufByte i.toNat) } := by
  have hsel : s.bufSelect 8 i = some i.toNat := State.bufSelect_eq_some_iff.mpr ⟨⟨rfl, h⟩, rfl⟩
  simp [State.hostAccess, Access.commandWord?, State.plainAccess, hsel]

theorem State.hostAccess_storeByte {s : State} {i : Word} (b : Byte) (h : i.toNat < s.params.bufSize.toNat) :
    s.hostAccess (.bufWrite 8 i b) = .next (s.putByte i.toNat b) := by
  have hsel : s.bufSelect 8 i = some i.toNat := State.bufSelect_eq_some_iff.mpr ⟨⟨rfl, h⟩, rfl⟩
  simp [State.hostAccess, Access.commandWord?, State.plainAccess, hsel]

/-- The answer to an access that is a bus error: a read yields none, a write leaves the answer as it is (R53). -/
def busErrorReply (a : Access) (old : Reply) : Reply :=
  match a with
  | .regRead _ _ => .busError
  | .regWrite _ _ _ => old
  | .bufRead _ _ => .busError
  | .bufWrite _ _ _ => old

/-- A write that is a bus error reaches no register, or a read-only one. -/
theorem State.hostAccess_regWrite_busError {s : State} {width : Nat} {off : BitVec 8} {v : Word}
    (h : IsBusError s (.regWrite width off v)) : s.hostAccess (.regWrite width off v) = .next s.busError := by
  cases hsel : regSelect width off with
  | none => simp [State.hostAccess, Access.commandWord?, State.plainAccess, hsel]
  | some r =>
    obtain ⟨rfl, rfl⟩ := regSelect_eq_some_iff.mp hsel
    have hmapped := mt regSelect_eq_none_iff.mpr (by simp [hsel] : regSelect 32 r.offset ≠ none)
    have hreadOnly : r.offset.toNat ∈ readOnlyOffsets := by
      simp only [IsBusError] at h
      tauto
    cases r with
    | cmd | data | frameLen | hdrCmdstat | hdrPlen => exact absurd hreadOnly (by decide)
    | status | acc | ckResult | hdrCksum | sig | bufsz | config => rfl

theorem State.hostAccess_busError {s : State} {a : Access} (h : IsBusError s a) :
    s.hostAccess a = .next { s.busError with reply := busErrorReply a s.reply } := by
  cases a with
  | regRead width off =>
    simp [State.hostAccess, Access.commandWord?, State.plainAccess, regSelect_eq_none_iff.mpr h, busErrorReply]
  | regWrite width off v => exact State.hostAccess_regWrite_busError h
  | bufRead width i =>
    simp [State.hostAccess, Access.commandWord?, State.plainAccess, State.bufSelect_eq_none_iff.mpr h, busErrorReply]
  | bufWrite width i b =>
    simp only [State.hostAccess, Access.commandWord?, State.plainAccess, State.bufSelect_eq_none_iff.mpr h]
    rfl

/-! #### The step by its next input (R7, R62, R200) -/

section
variable {s : State} {a : Access} {rest : List Input}

theorem step_of_no_input (h : s.inputs = []) : step s = .fault .noHostAccess := by
  simp [step, hostStep, h]

theorem step_of_access (h : s.inputs = .access a :: rest) : step s = s.takeInput.hostAccess a := by
  simp [step, hostStep, h]

theorem step_of_reset (h : s.inputs = .reset :: rest) : step s = .next s.takeInput.applyReset := by
  simp [step, hostStep, h]

theorem step_of_secondHost (h : s.inputs = .secondHost a :: rest) : step s = .refused .secondHost := by
  simp [step, hostStep, h]

end

/-- A step that goes on is an access of the one host, or reset. -/
theorem step_next_cases {s t : State} (h : step s = .next t) :
    (∃ a rest, s.inputs = .access a :: rest ∧ s.takeInput.hostAccess a = .next t) ∨
    (∃ rest, s.inputs = .reset :: rest ∧ s.takeInput.applyReset = t) := by
  rcases hin : s.inputs with _ | ⟨a | _ | a, rest⟩
  · simp [step_of_no_input hin] at h
  · exact .inl ⟨a, rest, rfl, (step_of_access hin).symm.trans h⟩
  · exact .inr ⟨rest, rfl, Host.Outcome.next.inj ((step_of_reset hin).symm.trans h)⟩
  · simp [step_of_secondHost hin] at h

theorem State.facing_eq_self {s : State} {a : Access} {rest : List Input} (h : s.inputs = .access a :: rest) :
    s.facing a rest = s := by
  rw [State.facing, ← h]

theorem step_facing (s : State) (a : Access) (rest : List Input) :
    step (s.facing a rest) = ({ s with inputs := rest, reply := .none } : State).hostAccess a :=
  step_of_access rfl

/-! #### How STATUS is written (R24, R25, R26) -/

/-- What every write to STATUS keeps to: each bit depends on that bit alone, a sticky bit stays set, and a newly set cause
comes with FAULT. -/
structure WritesStatus (f : Word → Word) : Prop where
  bitwise : ∀ {a b : Word} {k : Nat}, a.getLsbD k = b.getLsbD k → (f a).getLsbD k = (f b).getLsbD k
  keeps_sticky : ∀ {a : Word} {k : Nat}, 28 ≤ k → a.getLsbD k = true → (f a).getLsbD k = true
  fault_with_cause : ∀ {a : Word} {k : Nat}, 28 ≤ k → k < 31 → a.getLsbD k = false → (f a).getLsbD k = true →
    statusFault (f a) = true

/-- STATUS after a command that completes. -/
def okStatus (v : Bool) (st : Word) : Word := setValid v (setResult .ok st)

/-- STATUS after a command that raises an error. -/
def errorStatus (e : ResultCode) (st : Word) : Word := setStickyOf e (setResult e (setValid false st))

theorem writesStatus_id : WritesStatus id :=
  ⟨fun h => h, fun _ h => h, fun _ _ hclear hset => by simp [hclear] at hset⟩

theorem writesStatus_okStatus (v : Bool) : WritesStatus (okStatus v) := by
  have hbit (st : Word) (k : Nat) : (okStatus v st).getLsbD k =
      if k = 4 then v else if k < 4 then ResultCode.ok.code.getLsbD k else st.getLsbD k := by
    rw [okStatus, getLsbD_setValid, getLsbD_setResult]
  refine ⟨fun h => by rw [hbit, hbit, h], fun {a k} hk h => ?_, fun {a k} hk _ hclear hset => ?_⟩
  · rwa [hbit, if_neg (by omega), if_neg (by omega)]
  · rw [hbit, if_neg (by omega), if_neg (by omega), hclear] at hset
    cases hset

theorem writesStatus_setFBus : WritesStatus setFBus :=
  ⟨fun h => by rw [getLsbD_setFBus, getLsbD_setFBus, h], fun _ h => by rw [getLsbD_setFBus, h, Bool.or_true],
    fun _ _ _ _ => getLsbD_setFBus _ 31⟩

theorem writesStatus_errorStatus (e : ResultCode) : WritesStatus (errorStatus e) := by
  have hsticky {st : Word} {k : Nat} (hk : 28 ≤ k) :
      (setResult e (setValid false st)).getLsbD k = st.getLsbD k := by
    rw [getLsbD_setResult, if_neg (by omega), getLsbD_setValid, if_neg (by omega)]
  refine ⟨fun h => ?_, fun {a k} hk h => ?_, fun {a k} hk _ hclear hset => ?_⟩
  · simp only [errorStatus, getLsbD_setStickyOf, getLsbD_setResult, getLsbD_setValid, h]
  · rw [errorStatus, getLsbD_setStickyOf, hsticky hk, h, Bool.or_true]
  · cases e with
    | eOversize => exact getLsbD_setFOversize _ 31
    | eBadcmd => exact getLsbD_setFCmd _ 31
    | ok | eSig | eLen | eCksum => exact absurd ((hsticky hk).symm.trans hset) (by simp [hclear])

/-! #### What of a command's result depends on STATUS and DATA (R26, R79) -/

/-- The state with other contents of STATUS and DATA. -/
def State.withStatusData (s : State) (st d : Word) : State := { s with status := st, data := d }

section
variable (s : State) (st d : Word)

@[simp] theorem State.withStatusData_params : (s.withStatusData st d).params = s.params := rfl
@[simp] theorem State.withStatusData_acc : (s.withStatusData st d).acc = s.acc := rfl
@[simp] theorem State.withStatusData_frameLen : (s.withStatusData st d).frameLen = s.frameLen := rfl
@[simp] theorem State.withStatusData_hdrCmdstat : (s.withStatusData st d).hdrCmdstat = s.hdrCmdstat := rfl
@[simp] theorem State.withStatusData_hdrPlen : (s.withStatusData st d).hdrPlen = s.hdrPlen := rfl
@[simp] theorem State.withStatusData_frameSum (n : Nat) : (s.withStatusData st d).frameSum n = s.frameSum n := rfl
@[simp] theorem State.withStatusData_field32 (i : Nat) : (s.withStatusData st d).field32 i = s.field32 i := rfl

theorem State.withStatusData_raise (e : ResultCode) :
    (s.withStatusData st d).clearValid.raise e = s.withStatusData (errorStatus e st) d := rfl

theorem State.withStatusData_complete (v : Bool) :
    (s.withStatusData st d).complete v = s.withStatusData (okStatus v st) d := rfl

theorem State.withStatusData_setAccOk (v : Half) :
    (s.withStatusData st d).setAccOk v = ({ s with acc := v } : State).withStatusData (okStatus false st) d := rfl

theorem State.withStatusData_memWrite (i n v : Nat) :
    (s.withStatusData st d).memWrite i n v = (s.memWrite i n v).withStatusData st d := by
  simp only [State.memWrite, State.withStatusData_params]
  generalize s.params.byteOrder = o
  induction List.range n generalizing s with
  | nil => rfl
  | cons k ks ih => exact ih (s.putByte (i + k) _)

theorem State.withStatusData_stampHeader :
    (s.withStatusData st d).stampHeader = s.stampHeader.withStatusData st d := by
  simp [State.stampHeader, State.withStatusData_memWrite]

theorem State.withStatusData_stampChecksum (len : Nat) :
    (s.withStatusData st d).stampChecksum len = (s.stampChecksum len).withStatusData st d := by
  simp only [State.stampChecksum, State.withStatusData_memWrite, State.withStatusData_frameSum]
  rfl

end

/-- Two contents of DATA with the same operand bits for a command (R79). -/
def SameOperand (i : Instr) (d d' : Word) : Prop :=
  (i = .ckAdd16 → d.extractLsb' 0 16 = d'.extractLsb' 0 16) ∧ (i = .ckAdd8h → d.extractLsb' 0 8 = d'.extractLsb' 0 8)

theorem SameOperand.refl (i : Instr) (d : Word) : SameOperand i d d := ⟨fun _ => rfl, fun _ => rfl⟩

/-- `next` is the result of a command from each state that differs from `s` in STATUS and the unused bits of DATA, up to STATUS
and DATA themselves. -/
def ResultOf (i : Instr) (s : State) (next : State → State) : Prop :=
  ∃ t f, WritesStatus f ∧ ∀ st d, SameOperand i d s.data →
    next (s.withStatusData st d) = State.withStatusData t (f st) d

theorem resultOf_setAccOk (i : Instr) (s : State) (v : Half) {next : State → State}
    (h : ∀ st d, SameOperand i d s.data → next (s.withStatusData st d) = (s.withStatusData st d).setAccOk v) :
    ResultOf i s next :=
  ⟨{ s with acc := v }, okStatus false, writesStatus_okStatus false,
    fun st d hd => (h st d hd).trans (s.withStatusData_setAccOk st d v)⟩

theorem resultOf_raise (i : Instr) (s : State) (e : ResultCode) {next : State → State}
    (h : ∀ st d, next (s.withStatusData st d) = (s.withStatusData st d).clearValid.raise e) : ResultOf i s next :=
  ⟨s, errorStatus e, writesStatus_errorStatus e,
    fun st d _ => (h st d).trans (s.withStatusData_raise st d e)⟩

theorem resultOf_ckBufState (s : State) : ResultOf .ckBuf s ckBufState := by
  by_cases hsize : s.params.bufSize.toNat < s.frameLen.toNat
  · exact resultOf_raise _ s .eOversize fun st d => by simp [ckBufState, hsize]
  · exact resultOf_setAccOk _ s (onesAdd s.acc (s.frameSum s.frameLen.toNat)) fun st d _ => by simp [ckBufState, hsize]

theorem resultOf_frEncodeState (s : State) : ResultOf .frEncode s frEncodeState := by
  by_cases hsize : s.params.bufSize.toNat < 14 + s.hdrPlen.toNat
  · exact resultOf_raise _ s .eOversize fun st d => by simp [frEncodeState, hsize]
  · refine ⟨s.stampHeader.stampChecksum (14 + s.hdrPlen.toNat), okStatus false, writesStatus_okStatus false,
      fun st d _ => ?_⟩
    simp [frEncodeState, hsize, State.withStatusData_stampHeader, State.withStatusData_stampChecksum,
      State.withStatusData_complete]

theorem resultOf_checkSum (s : State) (len : Nat) : ResultOf .frDecode s fun u => u.checkSum len := by
  by_cases hsum : s.frameSum len = 0xFFFF#16
  · refine ⟨({ s with acc := s.frameSum len } : State).extractHeader, okStatus true, writesStatus_okStatus true,
      fun st d _ => ?_⟩
    simp only [State.checkSum, State.withStatusData_frameSum, hsum]
    rfl
  · refine ⟨{ s with acc := s.frameSum len }, errorStatus .eCksum, writesStatus_errorStatus .eCksum, fun st d _ => ?_⟩
    simp only [State.checkSum, State.withStatusData_frameSum, ne_eq, hsum, not_false_eq_true, if_true]
    rfl

theorem resultOf_frDecodeState (s : State) : ResultOf .frDecode s frDecodeState := by
  by_cases hshort : s.frameLen.toNat < 4
  · exact resultOf_raise _ s .eLen fun st d => by simp [frDecodeState, hshort]
  by_cases hsig : s.field32 0 = s.params.signature
  case neg => exact resultOf_raise _ s .eSig fun st d => by simp [frDecodeState, hshort, hsig]
  by_cases hheader : s.frameLen.toNat < 14
  · exact resultOf_raise _ s .eLen fun st d => by simp [frDecodeState, hshort, hsig, hheader]
  by_cases hlen : s.frameLen.toNat ≠ 14 + (s.field32 8).toNat ∨ s.frameLen.toNat > s.params.bufSize.toNat
  · exact resultOf_raise _ s .eLen fun st d => by
      simp only [frDecodeState, State.withStatusData_frameLen, State.withStatusData_field32, State.withStatusData_params,
        hshort, hsig, hheader, hlen, ne_eq, not_true_eq_false, if_true, if_false]
  · obtain ⟨t, f, hf, hnext⟩ := resultOf_checkSum s s.frameLen.toNat
    refine ⟨t, f, hf, fun st d hd => (hnext st d hd) ▸ ?_⟩
    simp only [frDecodeState, State.withStatusData_frameLen, State.withStatusData_field32, State.withStatusData_params,
      hshort, hsig, hheader, hlen, ne_eq, not_true_eq_false, if_false]

/-- The next state each command answers. -/
def commandState (i : Instr) (s : State) : State :=
  match i with
  | .ckClr => s.setAccOk 0#16
  | .ckAdd16 => s.setAccOk (onesAdd s.acc s.dataHalf)
  | .ckAdd8h => s.setAccOk (onesAdd s.acc s.dataHighByte)
  | .ckBuf => ckBufState s
  | .frEncode => frEncodeState s
  | .frDecode => frDecodeState s

theorem exec_eq (i : Instr) (s : State) : exec i s = .next (commandState i s) := by
  cases i <;> rfl

/-- From states that differ in STATUS and in bits of DATA that it does not use, a command goes on to states that differ there
alone; it keeps DATA, and writes STATUS as `WritesStatus` says. -/
theorem resultOf_commandState (i : Instr) (s : State) : ResultOf i s (commandState i) := by
  cases i with
  | ckClr => exact resultOf_setAccOk _ s 0#16 fun _ _ _ => rfl
  | ckAdd16 =>
    refine resultOf_setAccOk _ s (onesAdd s.acc s.dataHalf) fun st d ⟨hword, _⟩ => ?_
    have hoperand : (s.withStatusData st d).dataHalf = s.dataHalf := hword rfl
    rw [commandState, hoperand, State.withStatusData_acc]
  | ckAdd8h =>
    refine resultOf_setAccOk _ s (onesAdd s.acc s.dataHighByte) fun st d ⟨_, hbyte⟩ => ?_
    have hoperand : (s.withStatusData st d).dataHighByte = s.dataHighByte := congrArg (joinBytes · 0#8) (hbyte rfl)
    rw [commandState, hoperand, State.withStatusData_acc]
  | ckBuf => exact resultOf_ckBufState s
  | frEncode => exact resultOf_frEncodeState s
  | frDecode => exact resultOf_frDecodeState s

/-! #### What a host access does with STATUS (R24, R26, R53) -/

theorem State.readReg_withStatus (s : State) {r : Reg} (h : r ≠ .status) (st : Word) :
    ({ s with status := st } : State).readReg r = s.readReg r := by
  cases r with
  | status => exact absurd rfl h
  | _ => rfl

/-- Every access goes on, writes STATUS as `WritesStatus` says, and depends on STATUS in nothing else but the answer to a read
of STATUS. -/
theorem hostAccess_withStatus (s : State) (a : Access) :
    ∃ (t : State) (f : Word → Word) (r : Word → Reply), WritesStatus f ∧
      (a ≠ .regRead 32 0x04#8 → ∀ st st', r st = r st') ∧
      ∀ st, ({ s with status := st } : State).hostAccess a = .next { t with status := f st, reply := r st } := by
  cases accessKind s a with
  | command i =>
    obtain ⟨t, f, hf, hnext⟩ := resultOf_commandState i s
    refine ⟨t.withStatusData 0#32 s.data, f, fun _ => t.reply, hf, fun _ _ _ => rfl, fun st => ?_⟩
    rw [State.hostAccess_command, exec_eq]
    exact congrArg _ (hnext st s.data (.refl i s.data))
  | illegal w hw =>
    exact ⟨s, errorStatus .eBadcmd, fun _ => s.reply, writesStatus_errorStatus .eBadcmd, fun _ _ _ => rfl,
      fun _ => State.hostAccess_illegal hw⟩
  | readReg r =>
    refine ⟨s, id, fun st => .word (({ s with status := st } : State).readReg r), writesStatus_id, fun hne st st' => ?_,
      fun _ => State.hostAccess_readReg _ r⟩
    have hr : r ≠ .status := fun hr => hne (by rw [hr]; rfl)
    simp only [s.readReg_withStatus hr]
  | storeData v =>
    exact ⟨{ s with data := v }, id, fun _ => s.reply, writesStatus_id, fun _ _ _ => rfl, fun _ => rfl⟩
  | storeFrameLen v =>
    exact ⟨{ s with frameLen := v }, id, fun _ => s.reply, writesStatus_id, fun _ _ _ => rfl, fun _ => rfl⟩
  | storeHdrCmdstat v =>
    exact ⟨{ s with hdrCmdstat := v }, id, fun _ => s.reply, writesStatus_id, fun _ _ _ => rfl, fun _ => rfl⟩
  | storeHdrPlen v =>
    exact ⟨{ s with hdrPlen := v }, id, fun _ => s.reply, writesStatus_id, fun _ _ _ => rfl, fun _ => rfl⟩
  | readByte i hi =>
    exact ⟨s, id, fun _ => .byte (s.bufByte i.toNat), writesStatus_id, fun _ _ _ => rfl,
      fun _ => State.hostAccess_readByte hi⟩
  | storeByte i b hi =>
    exact ⟨s.putByte i.toNat b, id, fun _ => s.reply, writesStatus_id, fun _ _ _ => rfl,
      fun _ => State.hostAccess_storeByte b hi⟩
  | busError a h =>
    exact ⟨s, setFBus, fun _ => busErrorReply a s.reply, writesStatus_setFBus, fun _ _ _ => rfl,
      fun _ => State.hostAccess_busError h⟩

/-- Every access goes on and writes STATUS as `WritesStatus` says. -/
theorem hostAccess_next (s : State) (a : Access) :
    ∃ t f, s.hostAccess a = .next t ∧ WritesStatus f ∧ t.status = f s.status := by
  obtain ⟨t, f, r, hf, -, hnext⟩ := hostAccess_withStatus s a
  exact ⟨_, f, hnext s.status, hf, rfl⟩

/-! #### What a command changes (R24 to R36) -/

/-- The registers a command leaves alone, by the commands that write each. -/
structure CommandFrame (i : Instr) (s t : State) : Prop where
  params : t.params = s.params
  data : t.data = s.data
  pktBuf : t.pktBuf ≠ s.pktBuf → i = .frEncode
  frameLen : t.frameLen ≠ s.frameLen → i = .frEncode
  hdrCmdstat : t.hdrCmdstat ≠ s.hdrCmdstat → i = .frDecode
  hdrPlen : t.hdrPlen ≠ s.hdrPlen → i = .frDecode
  hdrCksum : t.hdrCksum ≠ s.hdrCksum → i = .frEncode ∨ i = .frDecode

theorem commandFrame_setAccOk (i : Instr) (s : State) (v : Half) : CommandFrame i s (s.setAccOk v) := by
  constructor <;> simp

theorem commandFrame_raise (i : Instr) (s : State) (e : ResultCode) : CommandFrame i s (s.clearValid.raise e) := by
  constructor <;> simp

theorem commandFrame_ckBufState (s : State) : CommandFrame .ckBuf s (ckBufState s) := by
  obtain ⟨-, heq⟩ | ⟨-, heq⟩ := ckBufState_cases s
  · exact heq ▸ commandFrame_raise _ s .eOversize
  · exact heq ▸ commandFrame_setAccOk _ s _

theorem commandFrame_frEncodeState (s : State) : CommandFrame .frEncode s (frEncodeState s) := by
  obtain ⟨-, heq⟩ | ⟨-, heq⟩ := frEncodeState_cases s
  · exact heq ▸ commandFrame_raise _ s .eOversize
  · rw [heq]
    constructor <;> simp [State.stampChecksum, State.stampHeader]

theorem commandFrame_checkSum (s : State) (len : Nat) : CommandFrame .frDecode s (s.checkSum len) := by
  obtain ⟨-, heq⟩ | ⟨-, heq⟩ := s.checkSum_cases len <;> rw [heq] <;> constructor <;> simp

theorem commandFrame_frDecodeState (s : State) : CommandFrame .frDecode s (frDecodeState s) := by
  obtain ⟨-, heq⟩ | ⟨-, -, heq⟩ | ⟨-, -, -, heq⟩ | ⟨-, -, -, -, heq⟩ := frDecodeState_cases s
  · exact heq ▸ commandFrame_raise _ s .eLen
  · exact heq ▸ commandFrame_raise _ s .eSig
  · exact heq ▸ commandFrame_raise _ s .eLen
  · exact heq ▸ commandFrame_checkSum s _

theorem commandFrame (i : Instr) (s : State) : CommandFrame i s (commandState i s) := by
  cases i with
  | ckClr | ckAdd16 | ckAdd8h => exact commandFrame_setAccOk _ s _
  | ckBuf => exact commandFrame_ckBufState s
  | frEncode => exact commandFrame_frEncodeState s
  | frDecode => exact commandFrame_frDecodeState s

/-! #### VALID (R25) -/

/-- The three checks of FR_DECODE on the frame in the buffer (R132, R133, R134). -/
def State.ChecksPass (s : State) : Prop :=
  s.SigCheck s.frameLen.toNat ∧ s.LenCheck s.frameLen.toNat ∧ s.CksumCheck s.frameLen.toNat

theorem statusValid_frDecodeState (s : State) : statusValid (frDecodeState s).status = true ↔ s.ChecksPass := by
  unfold State.ChecksPass
  obtain ⟨hshort, heq⟩ | ⟨-, hsig, heq⟩ | ⟨-, -, hlen, heq⟩ | ⟨hheader, hsig, hlen, hsize, heq⟩ := frDecodeState_cases s
  · exact iff_of_false (by simp [heq]) fun ⟨⟨hfour, _⟩, _⟩ => by omega
  · exact iff_of_false (by simp [heq]) fun ⟨⟨_, hsig'⟩, _⟩ => hsig hsig'
  · exact iff_of_false (by simp [heq]) fun ⟨_, ⟨hheader, hlen', hsize⟩, _⟩ => by omega
  · rw [heq]
    obtain ⟨hsum, hverdict⟩ | ⟨hsum, hverdict⟩ := s.checkSum_cases s.frameLen.toNat
    · exact iff_of_false (by simp [hverdict]) fun ⟨_, _, hsum'⟩ => hsum hsum'
    · exact iff_of_true (by simp [hverdict]) ⟨⟨by omega, hsig⟩, ⟨hheader, hlen, hsize⟩, hsum⟩

/-- VALID after a command: 1 exactly for an FR_DECODE whose checks pass. -/
theorem statusValid_commandState (i : Instr) (s : State) :
    statusValid (commandState i s).status = true ↔ i = .frDecode ∧ s.ChecksPass := by
  cases i with
  | ckClr | ckAdd16 | ckAdd8h => simp [commandState]
  | ckBuf => obtain ⟨-, heq⟩ | ⟨-, heq⟩ := ckBufState_cases s <;> simp [commandState, heq]
  | frEncode => obtain ⟨-, heq⟩ | ⟨-, heq⟩ := frEncodeState_cases s <;> simp [commandState, heq]
  | frDecode => simp [commandState, statusValid_frDecodeState]

theorem statusValid_illegalCommand (s : State) : statusValid s.illegalCommand.status = false := by
  simp [State.illegalCommand, -State.illegalCommand_status]

theorem encode_eq_frDecode_iff {i : Instr} : encode i = 0x00000011#32 ↔ i = .frDecode := by
  cases i <;> decide

/-! #### The registers as a host reads them -/

theorem step_regRead (s : State) (rest : List Input) (r : Reg) :
    step (s.facing (.regRead 32 r.offset) rest) = .next { s with inputs := rest, reply := .word (s.readReg r) } := by
  rw [step_facing, State.hostAccess_readReg]
  cases r <;> rfl

/-- The register names in the order of their offsets. -/
def registers : List Reg :=
  [.cmd, .status, .data, .acc, .ckResult, .frameLen, .hdrCmdstat, .hdrPlen, .hdrCksum, .sig, .bufsz, .config]

/-- The register map lists each register's offset with what a read of it returns. -/
theorem registerTable_eq (s : State) : registerTable s = registers.map fun r => (r.offset, s.readReg r) := by
  have hconfig : (if s.params.byteOrder = .be then 0#32 else 1#32) = configWord s.params.byteOrder := by
    cases s.params.byteOrder <;> rfl
  rw [registerTable, hconfig]
  rfl

theorem configWord_bits (o : ByteOrder) :
    (configWord o).getLsbD 0 = decide (o = .le) ∧ ∀ k, 1 ≤ k → (configWord o).getLsbD k = false := by
  cases o with
  | be => exact ⟨rfl, fun k _ => BitVec.getLsbD_zero⟩
  | le => exact ⟨rfl, fun k hk => by simp [configWord, BitVec.getLsbD_one]; omega⟩

/-! #### The statements -/

/-- Settles O7: each of the four forms of the list of inputs has its own answer, and every access goes on. -/
theorem stepStopsOnlyWithoutAHostAccess : Obligations.StepStopsOnlyWithoutAHostAccess := by
  intro s
  cases hin : s.inputs with
  | nil => simp [step_of_no_input hin]
  | cons input rest =>
    cases input with
    | access a =>
      obtain ⟨t, -, hnext, -, -⟩ := hostAccess_next s.takeInput a
      simp [step_of_access hin, hnext]
    | reset => simp [step_of_reset hin]
    | secondHost a => simp [step_of_secondHost hin]

/-- Settles O8: the register map is the read of each register at its offset. -/
theorem registerReadsReturnTheirValues : Obligations.RegisterReadsReturnTheirValues := by
  intro s rest off v h
  rw [registerTable_eq] at h
  obtain ⟨r, -, hr⟩ := List.mem_map.mp h
  cases hr
  exact step_regRead s rest r

/-- Settles O39: a command's VALID is that of `commandState`, an illegal word clears it, and what else writes STATUS is a bus
error, which keeps it. -/
theorem validFollowsTheLastCommand : Obligations.ValidFollowsTheLastCommand := by
  intro s a rest
  rw [step_facing]
  cases accessKind { s with inputs := rest, reply := .none } a with
  | command i =>
    refine ⟨_, (State.hostAccess_command _ i).trans (exec_eq i _), fun w hw => ?_, fun h => absurd rfl (h _)⟩
    cases hw
    rw [statusValid_commandState, encode_eq_frDecode_iff]
    rfl
  | illegal w hw =>
    refine ⟨_, State.hostAccess_illegal hw, fun w' hw' => ?_, fun h => absurd rfl (h _)⟩
    cases hw'
    exact iff_of_false (ne_true_of_eq_false (statusValid_illegalCommand _)) fun ⟨hdecode, _⟩ => hw .frDecode hdecode
  | readReg r => exact ⟨_, State.hostAccess_readReg _ r, by simp, fun _ => rfl⟩
  | storeData v => exact ⟨_, State.hostAccess_storeData _ v, by simp, fun _ => rfl⟩
  | storeFrameLen v => exact ⟨_, State.hostAccess_storeFrameLen _ v, by simp, fun _ => rfl⟩
  | storeHdrCmdstat v => exact ⟨_, State.hostAccess_storeHdrCmdstat _ v, by simp, fun _ => rfl⟩
  | storeHdrPlen v => exact ⟨_, State.hostAccess_storeHdrPlen _ v, by simp, fun _ => rfl⟩
  | readByte i hi => exact ⟨_, State.hostAccess_readByte hi, by simp, fun _ => rfl⟩
  | storeByte i b hi => exact ⟨_, State.hostAccess_storeByte b hi, by simp, fun _ => rfl⟩
  | busError a ha =>
    refine ⟨_, State.hostAccess_busError ha, fun w hw => ?_, fun _ => statusValid_setFBus s.status⟩
    subst hw
    exact absurd ha (by simp [IsBusError, readOnlyOffsets])

/-- FR_DECODE raises no fault: its errors are the integrity errors (R172). -/
theorem statusSticky_frDecodeState (s : State) : statusSticky (frDecodeState s).status = statusSticky s.status := by
  apply BitVec.eq_of_getLsbD_eq
  intro k hk
  simp only [statusSticky, BitVec.getLsbD_extractLsb', hk, decide_true, Bool.true_and]
  obtain ⟨-, heq⟩ | ⟨-, -, heq⟩ | ⟨-, -, -, heq⟩ | ⟨-, -, -, -, heq⟩ := frDecodeState_cases s
  · rw [heq, getLsbD_raise _ _ (by omega), Bool.false_or]
  · rw [heq, getLsbD_raise _ _ (by omega), Bool.false_or]
  · rw [heq, getLsbD_raise _ _ (by omega), Bool.false_or]
  · obtain ⟨-, hverdict⟩ | ⟨-, hverdict⟩ := s.checkSum_cases s.frameLen.toNat
    · rw [heq, hverdict, getLsbD_raise _ _ (by omega), Bool.false_or]
    · rw [heq, hverdict, getLsbD_complete _ _ (by omega), State.extractHeader_status]

/-- Settles O40: every access writes STATUS as `WritesStatus` says. -/
theorem stickyBitsStayUntilReset : Obligations.StickyBitsStayUntilReset := by
  intro s a rest
  obtain ⟨t, f, hnext, hf, hstatus⟩ := hostAccess_next { s with inputs := rest, reply := .none } a
  refine ⟨⟨t, (step_facing s a rest).trans hnext, fun k hk _ hset => ?_, fun k hk hk' hclear hset => ?_⟩,
    ⟨_, exec_frDecode s, statusSticky_frDecodeState s⟩⟩
  · exact hstatus ▸ hf.keeps_sticky hk hset
  · rw [hstatus] at hset ⊢
    exact hf.fault_with_cause hk hk' hclear hset

/-- Settles O41: nothing but STATUS itself and the answer to a read of it depends on STATUS, and each bit written depends on that
bit alone. -/
theorem stickyBitsChangeNoBehaviour : Obligations.StickyBitsChangeNoBehaviour := by
  intro s t st hst h
  obtain ⟨a, rest, hin, hnext⟩ | ⟨rest, hin, rfl⟩ := step_next_cases h
  · obtain ⟨u, f, r, hf, hr, hstatus⟩ := hostAccess_withStatus s.takeInput a
    cases hnext.symm.trans (hstatus s.status)
    have hstep : step { s with status := st } = .next { u with status := f st, reply := r st } :=
      (step_of_access (s := { s with status := st }) hin).trans (hstatus st)
    refine ⟨_, hstep, rfl, fun k hk => hf.bitwise (hst k hk), fun hne => ?_⟩
    exact hr (fun ha => hne (by simp [hin, ha])) _ _
  · exact ⟨_, step_of_reset hin, rfl, fun _ _ => rfl, fun _ => rfl⟩

/-- Settles O43: the values of `State.reset`. -/
theorem resetStateHasTheResetValues : Obligations.ResetStateHasTheResetValues :=
  ⟨rfl, rfl, rfl, rfl, rfl, rfl, rfl, rfl⟩

/-- Settles O44: reset gives the values of `State.applyReset`; a step that is no reset keeps each set sticky bit. -/
theorem resetInputRestoresTheResetValues : Obligations.ResetInputRestoresTheResetValues := by
  refine ⟨fun s rest => ⟨_, step_of_reset rfl, rfl, rfl, rfl, (rfl : State.reset.readReg .ckResult = _),
      rfl, rfl, rfl, rfl, rfl⟩,
    fun s t k h hk hset hclear => ?_⟩
  obtain ⟨a, rest, -, hnext⟩ | ⟨rest, hin, -⟩ := step_next_cases h
  · obtain ⟨u, f, hnext', hf, hstatus⟩ := hostAccess_next s.takeInput a
    cases hnext.symm.trans hnext'
    have hkept : t.status.getLsbD k = true := hstatus ▸ hf.keeps_sticky hk hset
    simp [hkept] at hclear
  · simp [hin]

theorem extractLsb'_eq_of_toNat_mod_eq {n : Nat} {d d' : Word} (h : d.toNat % 2 ^ n = d'.toNat % 2 ^ n) :
    d.extractLsb' 0 n = d'.extractLsb' 0 n := by
  apply BitVec.eq_of_toNat_eq
  simpa [BitVec.extractLsb'_toNat] using h

/-- Settles O48: a command goes on alike from states with the same operand bits in DATA; the next access reads what was
written. -/
theorem dataIsOnlyAnOperand : Obligations.DataIsOnlyAnOperand := by
  refine ⟨fun s i d hword hbyte => ?_, fun s v rest => ?_⟩
  · have hoperand : SameOperand i d s.data :=
      ⟨fun hi => extractLsb'_eq_of_toNat_mod_eq (hword hi), fun hi => extractLsb'_eq_of_toNat_mod_eq (hbyte hi)⟩
    obtain ⟨t, f, -, hnext⟩ := resultOf_commandState i s
    refine ⟨t.withStatusData (f s.status) s.data, ?_, rfl, ?_⟩
    · exact (exec_eq i s).trans (congrArg _ (hnext s.status s.data (.refl i s.data)))
    · exact (exec_eq i _).trans (congrArg _ (hnext s.status d hoperand))
  · exact ⟨_, _, (step_facing s _ _).trans (State.hostAccess_storeData _ v),
      (step_of_access rfl).trans (State.hostAccess_readReg _ .data), rfl⟩

/-- Settles O49: by the kind of the access; of the commands each writes what its frame allows. -/
theorem onlyTheirWritersWrite : Obligations.OnlyTheirWritersWrite := by
  intro s t a rest h
  rw [step_facing] at h
  cases accessKind { s with inputs := rest, reply := .none } a with
  | command i =>
    rw [State.hostAccess_command, exec_eq] at h
    cases h
    have frame := commandFrame i { s with inputs := rest, reply := .none }
    have named {j : Instr} (hj : i = j) : Access.regWrite 32 0x00#8 (encode i) = .regWrite 32 0x00#8 (encode j) := by
      rw [hj]
    exact ⟨fun _ => .inl ⟨_, rfl⟩, frame.params, fun hne => .inr (named (frame.pktBuf hne)),
      fun hne => absurd frame.data hne, fun _ => ⟨_, i, rfl, encode_mem_opcodeMap i⟩,
      fun hne => .inr (named (frame.frameLen hne)), fun hne => .inr (named (frame.hdrCmdstat hne)),
      fun hne => .inr (named (frame.hdrPlen hne)), fun hne => (frame.hdrCksum hne).imp named named⟩
  | illegal w hw => rw [State.hostAccess_illegal hw] at h; cases h; simp
  | readReg r => rw [State.hostAccess_readReg] at h; cases h; simp
  | storeData v => rw [State.hostAccess_storeData] at h; cases h; simp
  | storeFrameLen v => rw [State.hostAccess_storeFrameLen] at h; cases h; simp
  | storeHdrCmdstat v => rw [State.hostAccess_storeHdrCmdstat] at h; cases h; simp
  | storeHdrPlen v => rw [State.hostAccess_storeHdrPlen] at h; cases h; simp
  | readByte i hi => rw [State.hostAccess_readByte hi] at h; cases h; simp
  | storeByte i b hi => rw [State.hostAccess_storeByte b hi] at h; cases h; simp
  | busError a ha =>
    rw [State.hostAccess_busError ha] at h
    cases h
    have herror : IsBusError s a := ha
    simp [herror]

/-- No step writes the constants (R37, R38, R39): no access does, and reset keeps them. -/
theorem step_keeps_params {s t : State} (h : step s = .next t) : t.params = s.params := by
  obtain ⟨a, rest, hin, -⟩ | ⟨rest, -, rfl⟩ := step_next_cases h
  · rw [← State.facing_eq_self hin] at h
    obtain ⟨-, hparams, -⟩ := onlyTheirWritersWrite s t a rest h
    exact hparams
  · rfl

/-- Settles O9: the three reads are reads of registers, the three writes are bus errors, and no step writes the parameters. -/
theorem constantRegistersKeepTheParameters : Obligations.ConstantRegistersKeepTheParameters := by
  intro s rest v
  refine ⟨step_regRead s rest .sig, step_regRead s rest .bufsz,
    ⟨configWord s.params.byteOrder, step_regRead s rest .config, configWord_bits s.params.byteOrder⟩,
    fun off hoff => ?_, fun t h => step_keeps_params h⟩
  have herror : IsBusError { s with inputs := rest, reply := .none } (.regWrite 32 off v) := by
    obtain rfl | rfl | rfl := hoff <;> exact .inr (.inr (.inr (by decide)))
  exact ⟨_, (step_facing s _ rest).trans (State.hostAccess_busError herror), getLsbD_busError s, rfl⟩

end Sys2Proof.Machine

/-! ### The memory view: host accesses, bus errors and the packet buffer (spec/20_memory.md)

Each statement about one or two accesses is the answer of `hostAccess` for the kind of the access. A received datagram is a run:
`run_writeBytes` carries it through its buffer writes, and `Memory.putBytes` says what they leave. -/

namespace Sys2Proof.Machine

/-! #### F_BUS over the commands (R24, R53) -/

@[simp] theorem statusFBus_setResult (c : ResultCode) (st : Word) : statusFBus (setResult c st) = statusFBus st :=
  getLsbD_setResult c st 30

@[simp] theorem statusFBus_setValid (v : Bool) (st : Word) : statusFBus (setValid v st) = statusFBus st :=
  getLsbD_setValid v st 30

@[simp] theorem statusFBus_setFCmd (st : Word) : statusFBus (setFCmd st) = statusFBus st :=
  getLsbD_setFCmd st 30

/-- The faults a command raises have sticky bits of their own (R173, R174). -/
@[simp] theorem statusFBus_setStickyOf (c : ResultCode) (st : Word) : statusFBus (setStickyOf c st) = statusFBus st := by
  cases c with
  | ok | eSig | eLen | eCksum => rfl
  | eOversize => exact getLsbD_setFOversize st 30
  | eBadcmd => exact statusFBus_setFCmd st

theorem statusFBus_frDecodeState (s : State) : statusFBus (frDecodeState s).status = statusFBus s.status := by
  obtain ⟨-, heq⟩ | ⟨-, -, heq⟩ | ⟨-, -, -, heq⟩ | ⟨-, -, -, -, heq⟩ := frDecodeState_cases s
  · simp [heq]
  · simp [heq]
  · simp [heq]
  · obtain ⟨-, hverdict⟩ | ⟨-, hverdict⟩ := s.checkSum_cases s.frameLen.toNat <;> simp [heq, hverdict]

theorem statusFBus_commandState (i : Instr) (s : State) : statusFBus (commandState i s).status = statusFBus s.status := by
  cases i with
  | ckClr | ckAdd16 | ckAdd8h => simp [commandState]
  | ckBuf => obtain ⟨-, heq⟩ | ⟨-, heq⟩ := ckBufState_cases s <;> simp [commandState, heq]
  | frEncode =>
    obtain ⟨-, heq⟩ | ⟨-, heq⟩ := frEncodeState_cases s <;>
      simp [commandState, heq, State.stampChecksum, State.stampHeader]
  | frDecode => exact statusFBus_frDecodeState s

/-- A write to CMD keeps F_BUS, whether its word is legal or not. -/
theorem hostAccess_cmd_keeps_fBus {s t : State} {w : Word} (h : s.hostAccess (.regWrite 32 0x00#8 w) = .next t) :
    statusFBus t.status = statusFBus s.status := by
  by_cases hw : ∃ i, w = encode i
  · obtain ⟨i, rfl⟩ := hw
    cases h.symm.trans ((s.hostAccess_command i).trans (exec_eq i s))
    exact statusFBus_commandState i s
  · cases h.symm.trans (State.hostAccess_illegal fun i hi => hw ⟨i, hi⟩)
    simp

/-! #### What a read answers (R52, R55) -/

/-- A 32-bit register read or an 8-bit buffer read. -/
abbrev Access.IsRead (a : Access) : Prop := (∃ off, a = .regRead 32 off) ∨ ∃ i, a = .bufRead 8 i

/-- The answer to a read that is no bus error is a value, the same whatever the host's list and the last answer are; the read
writes that answer and nothing else. -/
theorem hostAccess_read {s : State} {a : Access} (hread : a.IsRead) (h : ¬ IsBusError s a) :
    ∃ answer : Reply, ((∃ v, answer = .word v) ∨ ∃ b, answer = .byte b) ∧
      ∀ ins last, ({ s with inputs := ins, reply := last } : State).hostAccess a =
        .next { s with inputs := ins, reply := answer } := by
  cases accessKind s a with
  | readReg r =>
    refine ⟨.word (s.readReg r), .inl ⟨_, rfl⟩, fun ins last => (State.hostAccess_readReg _ r).trans ?_⟩
    cases r <;> rfl
  | readByte i hi => exact ⟨.byte (s.bufByte i.toNat), .inr ⟨_, rfl⟩, fun _ _ => State.hostAccess_readByte hi⟩
  | busError a herror => exact absurd herror h
  | command | illegal | storeData | storeFrameLen | storeHdrCmdstat | storeHdrPlen | storeByte =>
    simp [Access.IsRead] at hread

/-! #### Consecutive bytes (R58) -/

/-- The written bytes after writes of `bs` to the indices from `i` on. -/
def Memory.putBytes (m : List Host.Cell) (i : Nat) (bs : List Byte) : List Host.Cell :=
  match bs with
  | [] => m
  | b :: bs => Memory.putBytes (Memory.put m i b) (i + 1) bs

theorem Memory.get?_putBytes_outside {m : List Host.Cell} {i j : Nat} {bs : List Byte}
    (h : j < i ∨ i + bs.length ≤ j) : Memory.get? (Memory.putBytes m i bs) j = Memory.get? m j := by
  induction bs generalizing m i with
  | nil => rfl
  | cons b bs ih =>
    rw [List.length_cons] at h
    exact (ih (by omega)).trans (Memory.get?_put_ne m b (by omega))

theorem Memory.get?_putBytes_inside {m : List Host.Cell} {i k : Nat} {bs : List Byte} (h : k < bs.length) :
    Memory.get? (Memory.putBytes m i bs) (i + k) = some bs[k] := by
  induction bs generalizing m i k with
  | nil => cases h
  | cons b bs ih =>
    cases k with
    | zero => exact (Memory.get?_putBytes_outside (.inl i.lt_succ_self)).trans (Memory.get?_put_same m i b)
    | succ k =>
      rw [List.getElem_cons_succ, Nat.add_comm k, ← Nat.add_assoc]
      exact ih (Nat.lt_of_succ_lt_succ h)

theorem run_one (s : State) : run 1 s = step s := by
  simp only [run]
  cases step s <;> rfl

/-- Writes of consecutive bytes inside the buffer, then one access more: the bytes are stored when that access is made. -/
theorem run_writeBytes {s : State} {i : Word} {bs : List Byte} {a : Access} {rest : List Input}
    (h : i.toNat + bs.length ≤ s.params.bufSize.toNat) :
    run (bs.length + 1) { s with inputs := (writeBytes i bs).map .access ++ .access a :: rest } =
      ({ s with pktBuf := Memory.putBytes s.pktBuf i.toNat bs, inputs := rest, reply := .none } : State).hostAccess a := by
  induction bs generalizing s i with
  | nil => exact (run_one _).trans (step_facing s a rest)
  | cons b bs ih =>
    rw [List.length_cons] at h
    have hnext : (i + 1).toNat = i.toNat + 1 := by
      have hsize := s.params.bufSize.isLt
      exact BitVec.toNat_add_of_lt (show i.toNat + 1 < 2 ^ 32 by omega)
    have hstep := (step_facing s (.bufWrite 8 i b) ((writeBytes (i + 1) bs).map .access ++ .access a :: rest)).trans
      (State.hostAccess_storeByte b (show i.toNat < s.params.bufSize.toNat by omega))
    have hrest := ih (s := { s with pktBuf := Memory.put s.pktBuf i.toNat b, reply := .none }) (i := i + 1)
      (by simp only [hnext]; omega)
    rw [hnext] at hrest
    exact (run_succ _ hstep).trans hrest

/-! #### The statements -/

/-- Settles O10: the answers of the four accesses that store. -/
theorem registerWritesOnlyStore : Obligations.RegisterWritesOnlyStore := fun s rest v =>
  ⟨(step_facing s _ rest).trans (State.hostAccess_storeData _ v),
    (step_facing s _ rest).trans (State.hostAccess_storeFrameLen _ v),
    (step_facing s _ rest).trans (State.hostAccess_storeHdrCmdstat _ v),
    (step_facing s _ rest).trans (State.hostAccess_storeHdrPlen _ v)⟩

/-- Settles O11: a listed access is `State.busError` with an answer that is no value; of the others only a write to CMD writes
STATUS, and it keeps F_BUS. -/
theorem busErrorsAreExactlyTheListedAccesses : Obligations.BusErrorsAreExactlyTheListedAccesses := by
  intro s a rest
  refine ⟨fun herror => ?_, fun hlegal => ?_⟩
  · have herror' : IsBusError { s with inputs := rest, reply := .none } a := herror
    refine ⟨_, (step_facing s a rest).trans (State.hostAccess_busError herror'), fun v b => ?_, getLsbD_busError s, rfl⟩
    cases a <;> simp [busErrorReply]
  · obtain ⟨t, -, hnext, -, -⟩ := hostAccess_next { s with inputs := rest, reply := .none } a
    have hstep := (step_facing s a rest).trans hnext
    refine ⟨t, hstep, ?_⟩
    by_cases hsame : t.status = s.status
    · rw [hsame]
    · obtain ⟨hwriter, -⟩ := onlyTheirWritersWrite s t a rest hstep
      obtain ⟨w, rfl⟩ := (hwriter hsame).resolve_right hlegal
      exact (hostAccess_cmd_keeps_fBus hnext :)

/-- Settles O12: the answers of a buffer read and a buffer write inside the buffer. -/
theorem bufferAccessesReachOneByte : Obligations.BufferAccessesReachOneByte := fun s rest _ b hi =>
  ⟨(step_facing s _ rest).trans (State.hostAccess_readByte hi),
    _, (step_facing s _ rest).trans (State.hostAccess_storeByte b hi),
    State.bufByte_putByte_same _ _ b, fun _ hj => State.bufByte_putByte_ne _ b hj, rfl⟩

/-- Settles O13: the read finds the byte of `State.putByte`. -/
theorem bufferReadSeesTheLastWrite : Obligations.BufferReadSeesTheLastWrite := by
  intro s rest i j b hi hj
  refine ⟨_, _, (step_facing s _ _).trans (State.hostAccess_storeByte b hi),
    (step_of_access rfl).trans (State.hostAccess_readByte hj), congrArg Reply.byte ?_⟩
  calc (s.putByte i.toNat b).bufByte j.toNat
      = if j.toNat = i.toNat then b else s.bufByte j.toNat := s.bufByte_putByte i.toNat j.toNat b
    _ = if j = i then b else s.bufByte j.toNat := by simp only [BitVec.toNat_inj]

/-- Settles O14: the answer depends neither on the host's list nor on the last answer, the only fields the first read wrote. -/
theorem readsHaveNoSideEffect : Obligations.ReadsHaveNoSideEffect := by
  intro s a rest hread hlegal
  obtain ⟨answer, hvalue, hnext⟩ := hostAccess_read hread hlegal
  exact ⟨_, _, (step_facing s a _).trans (hnext (.access a :: rest) .none), (step_of_access rfl).trans (hnext rest .none),
    rfl, rfl, hvalue⟩

/-- Settles O52: the buffer writes store the bytes that fit, and the last access stores the length. -/
theorem receivedDatagramIsStored : Obligations.ReceivedDatagramIsStored := by
  intro s bytes rest hlen
  have hstored : (bytes.take s.params.bufSize.toNat).length = min bytes.length s.params.bufSize.toNat := by
    rw [List.length_take, Nat.min_comm]
  rw [← hstored, receiveDatagram, List.map_append, List.append_assoc]
  refine ⟨_, (run_writeBytes (by simp)).trans (State.hostAccess_storeFrameLen _ _), ?_, fun k hk => ?_, fun k hk => ?_, rfl⟩
  · exact (BitVec.toNat_ofNat _ _).trans (Nat.mod_eq_of_lt hlen)
  · have hbyte := Memory.get?_putBytes_inside (m := s.pktBuf) (i := 0) hk
    rw [Nat.zero_add, List.getElem_take] at hbyte
    simp [State.bufByte, hbyte]
  · have hkept := Memory.get?_putBytes_outside (m := s.pktBuf) (i := 0) (.inr ((Nat.zero_add _).trans_le hk))
    simp [State.bufByte, hkept]

end Sys2Proof.Machine

/-! ### The encoding of commands (spec/30_encoding.md)

A word selects a command exactly when it is the command's own word (`decodeCmd_eq_command_iff`). The other readings of the opcode
map, as numbered words, as a list and as ranges of illegal words, are tied to that here; what a write to CMD does then follows from
the answer of `hostAccess` for a command or an illegal word. -/

namespace Sys2Proof.Machine

/-! #### The opcode map and the opcode table (R70, R71, R75) -/

theorem mem_opcodeMap_iff {w : Word} {i : Instr} : (w, i) ∈ opcodeMap ↔ w = encode i := by
  refine ⟨fun h => ?_, fun h => h ▸ encode_mem_opcodeMap i⟩
  have hrows : ∀ row ∈ opcodeMap, row.1 = encode row.2 := by decide
  exact hrows _ h

theorem decodeTableWord_eq_some_iff_decodeCmd {nbits n : Nat} {i : Instr} :
    decodeTableWord nbits n = some i ↔ decodeCmd (BitVec.ofNat 32 (n % 2 ^ nbits)) = .command i := by
  unfold decodeTableWord
  split <;> simp [*]

/-- A number is read as a command exactly when its low 32 bits are the command's word. -/
theorem decodeTableWord_eq_some_iff {n : Nat} {i : Instr} :
    decodeTableWord 32 n = some i ↔ n % 2 ^ 32 = (encode i).toNat := by
  rw [decodeTableWord_eq_some_iff_decodeCmd, decodeCmd_eq_command_iff, ← BitVec.toNat_inj, BitVec.toNat_ofNat, Nat.mod_mod]

/-! #### The illegal words (R73) -/

theorem decodeOp_eq_illegal_iff {op : Byte} : (∃ why, decodeOp op = .illegal why) ↔ opAssigned op = false := by
  unfold decodeOp opAssigned
  split_ifs <;> simp [*]

/-- The decoder refuses exactly the words that are not well formed. -/
theorem decodeCmd_eq_illegal_iff {w : Word} : (∃ why, decodeCmd w = .illegal why) ↔ commandWordWf w = false := by
  unfold decodeCmd commandWordWf
  cases mbzClear w with
  | true => simpa using decodeOp_eq_illegal_iff
  | false => simp

/-- The unassigned opcodes as R73 lists them. -/
theorem opAssigned_eq_false_iff : ∀ {op : Byte}, opAssigned op = false ↔
    op.toNat = 0x00 ∨ (0x05 ≤ op.toNat ∧ op.toNat ≤ 0x0F) ∨ 0x12 ≤ op.toNat := by
  decide

theorem commandWordWf_eq_false_iff {w : Word} :
    commandWordWf w = false ↔ commandMbz w ≠ 0#24 ∨ opAssigned (commandOp w) = false := by
  simp [commandWordWf, mbzClear, imp_iff_not_or]

theorem ne_encode_of_decodeCmd_eq_illegal {w : Word} {why : IllegalWord} (h : decodeCmd w = .illegal why) (i : Instr) :
    w ≠ encode i := by
  rintro rfl
  cases (decodeCmd_encode i).symm.trans h

/-! #### STATUS after a raised error (R171 to R174) -/

/-- The bits of STATUS that raising a result code sets. -/
def ResultCode.stickyBits (c : ResultCode) : List Nat :=
  match c with
  | .ok => []
  | .eSig => []
  | .eLen => []
  | .eCksum => []
  | .eOversize => [28, 31]
  | .eBadcmd => [29, 31]

theorem statusError_raise (s : State) (e : ResultCode) : StatusError s (s.clearValid.raise e) e.code e.stickyBits := by
  refine ⟨by simp, by simp, fun k hk => ?_⟩
  rw [getLsbD_raise s e hk]
  cases e <;> simp only [ResultCode.stickyBits, List.contains_cons, List.contains_nil, Bool.or_false]

/-! #### A write to CMD (R21, R72) -/

theorem step_writeCommand (s : State) (i : Instr) (rest : List Input) :
    step (s.facing (.regWrite 32 0x00#8 (encode i)) rest) = exec i { s with inputs := rest, reply := .none } :=
  (step_facing s _ rest).trans (State.hostAccess_command _ i)

theorem step_writeIllegal (s : State) {w : Word} (rest : List Input) (h : ∀ i, w ≠ encode i) :
    step (s.facing (.regWrite 32 0x00#8 w) rest) =
      .next ({ s with inputs := rest, reply := .none } : State).illegalCommand :=
  (step_facing s _ rest).trans (State.hostAccess_illegal h)

theorem State.withFetchWord_encode (s : State) (i : Instr) :
    s.withFetchWord 32 (encode i).toNat = s.facing (.regWrite 32 0x00#8 (encode i)) s.inputs := by
  have hword : BitVec.ofNat 32 ((encode i).toNat % 2 ^ 32) = encode i := by
    rw [Nat.mod_eq_of_lt (encode i).isLt, BitVec.ofNat_toNat, BitVec.setWidth_eq]
  rw [State.withFetchWord, hword]
  rfl

/-! #### An operand written to DATA, then a command (R79, R82) -/

/-- The two steps of a pseudo-instruction: the operand is in DATA when the command runs. -/
theorem run_storeData_command (s : State) (d : Word) (i : Instr) (rest : List Input) :
    run 2 { s with inputs := .access (Access.wr .data d) :: .access (Access.wr .cmd (encode i)) :: rest } =
      exec i { s with data := d, inputs := rest, reply := .none } := by
  have hstore : step (s.facing (Access.wr .data d) (.access (Access.wr .cmd (encode i)) :: rest)) =
      .next (({ s with data := d, reply := .none } : State).facing (.regWrite 32 0x00#8 (encode i)) rest) :=
    (step_facing s _ _).trans (State.hostAccess_storeData _ d)
  exact (run_succ 1 hstore).trans ((run_one _).trans (step_writeCommand _ i rest))

theorem extractLsb'_setWidth_self {n : Nat} (h : n ≤ 32) (x : BitVec n) : (x.setWidth 32).extractLsb' 0 n = x := by
  rw [← BitVec.setWidth_eq_extractLsb' h, BitVec.setWidth_setWidth_of_le x h, BitVec.setWidth_eq]

theorem State.dataHalf_of_data_eq {s : State} {v : Half} (h : s.data = v.setWidth 32) : s.dataHalf = v := by
  rw [State.dataHalf, h, extractLsb'_setWidth_self (by decide)]

theorem State.dataHighByte_of_data_eq {s : State} {b : Byte} (h : s.data = b.setWidth 32) :
    s.dataHighByte = b ++ 0x00#8 := by
  rw [State.dataHighByte, h, extractLsb'_setWidth_self (by decide), joinBytes]

/-! #### The statements -/

/-- Settles O3: a word, and a number modulo 2^32, selects a command exactly when it is the command's own word. -/
theorem decodeInvertsEncode : Obligations.DecodeInvertsEncode := fun i _ =>
  ⟨decodeCmd_encode i, decodeTableWord_eq_some_iff.mpr (Nat.mod_eq_of_lt (encode i).isLt),
    fun _ h => decodeCmd_eq_command_iff.mp h, fun _ h => decodeTableWord_eq_some_iff.mp h⟩

/-- Settles O2: the rows of the opcode map are the commands with their words. -/
theorem decodeSelectsExactlyTheOpcodeMap : Obligations.DecodeSelectsExactlyTheOpcodeMap := by
  intro w
  have hselect (i : Instr) : decodeCmd w = .command i ↔ (w, i) ∈ opcodeMap :=
    decodeCmd_eq_command_iff.trans mem_opcodeMap_iff.symm
  refine ⟨hselect, fun hmap => ?_⟩
  cases hw : decodeCmd w with
  | command i => exact absurd ((hselect i).mp hw) (hmap i)
  | illegal why => exact ⟨why, rfl⟩

/-- Settles O4: the illegal words are the ill-formed ones, none of them a command's word, so that the step is
`State.illegalCommand`. -/
theorem illegalWordRaisesBadcmd : Obligations.IllegalWordRaisesBadcmd := by
  intro s w rest
  refine ⟨?_, fun ⟨_, hillegal⟩ => ?_⟩
  · rw [decodeCmd_eq_illegal_iff, commandWordWf_eq_false_iff, opAssigned_eq_false_iff]
    rfl
  · exact ⟨_, step_writeIllegal s rest (ne_encode_of_decodeCmd_eq_illegal hillegal), statusError_raise s .eBadcmd, rfl⟩

/-- Settles O1: the words of the four commands, a word whose opcode is unassigned, and one whose MBZ field is 1. -/
theorem commandWordsDecode : Obligations.CommandWordsDecode :=
  ⟨decodeCmd_encode .ckClr, decodeCmd_encode .ckBuf, decodeCmd_encode .frEncode, decodeCmd_encode .frDecode,
    by decide, by decide⟩

/-- Settles O5: the word is the command's own. -/
theorem stepRunsTheDecodedCommand : Obligations.StepRunsTheDecodedCommand := by
  intro s w i rest h
  rw [decodeCmd_eq_command_iff.mp h, step_writeCommand]

/-- Settles O6: `State.withFetchWord` puts a write of the command's word to CMD in front of the inputs. -/
theorem placedWordIsTheNextCommand : Obligations.PlacedWordIsTheNextCommand := by
  intro s i
  rw [s.withFetchWord_encode, step_writeCommand]

/-- Settles O51: each line is a write to DATA and a command that adds the operand it finds there. -/
theorem pseudoInstructionsAddTheirOperand : Obligations.PseudoInstructionsAddTheirOperand := by
  intro s rest v b
  refine ⟨⟨_, run_storeData_command s (v.setWidth 32) .ckAdd16 rest, ?_, rfl, rfl⟩,
    ⟨_, run_storeData_command s (b.setWidth 32) .ckAdd8h rest, ?_, rfl, rfl⟩⟩
  · exact congrArg (onesAdd s.acc) (State.dataHalf_of_data_eq rfl)
  · exact congrArg (onesAdd s.acc) (State.dataHighByte_of_data_eq rfl)

end Sys2Proof.Machine

/-! ### The checksum arithmetic (spec/40_checksum.md)

One's-complement addition is arithmetic on exact sums: `onesValue t` is the 16-bit value of the exact sum `t`, and
`ones_add`, `ones_sum` and `fold` all compute it. The laws, the closed form and what the sum can and cannot see follow from
`eq_onesValue_iff`. The commands are `State.setAccOk` and `State.raise` over these sums. -/

namespace Sys2Proof.Machine

/-! #### The value of an exact sum (R103) -/

/-- The 16-bit value of the exact sum `t`: zero for zero, else the representative in 1 to 65535 modulo 65535 (R103). -/
def onesValue (t : Nat) : Nat := if t = 0 then 0 else 1 + (t - 1) % 0xFFFF

theorem eq_onesValue_iff {v t : Nat} :
    v = onesValue t ↔ v ≤ 0xFFFF ∧ (v = 0 ↔ t = 0) ∧ v % 0xFFFF = t % 0xFFFF := by
  unfold onesValue
  split <;> omega

theorem onesValue_of_le {t : Nat} (h : t ≤ 0xFFFF) : onesValue t = t :=
  (eq_onesValue_iff.mpr ⟨h, Iff.rfl, rfl⟩).symm

theorem onesValue_add_left (t u : Nat) : onesValue (onesValue t + u) = onesValue (t + u) := by
  obtain ⟨-, hzero, hmod⟩ := eq_onesValue_iff.mp (rfl : onesValue t = _)
  obtain ⟨hle, hzero', hmod'⟩ := eq_onesValue_iff.mp (rfl : onesValue (onesValue t + u) = _)
  exact eq_onesValue_iff.mpr ⟨hle, by omega, by omega⟩

theorem onesValue_add_right (t u : Nat) : onesValue (t + onesValue u) = onesValue (t + u) := by
  rw [Nat.add_comm, onesValue_add_left, Nat.add_comm]

/-! #### `ones_add` (R100, R108) -/

theorem onesAdd_toNat_eq_onesValue (a b : Half) : (onesAdd a b).toNat = onesValue (a.toNat + b.toNat) := by
  have ha := a.isLt
  have hb := b.isLt
  rw [onesAdd_toNat, eq_onesValue_iff]
  split <;> omega

/-- The 16-bit sum with the carry out of bit 15 added back (R100). -/
theorem onesAdd_toNat_carry (a b : Half) :
    (onesAdd a b).toNat = (a.toNat + b.toNat) % 65536 + (a.toNat + b.toNat) / 65536 := by
  have ha := a.isLt
  have hb := b.isLt
  rw [onesAdd_toNat]
  split <;> omega

theorem onesAdd_comm (a b : Half) : onesAdd a b = onesAdd b a := by
  apply BitVec.eq_of_toNat_eq
  rw [onesAdd_toNat_eq_onesValue, onesAdd_toNat_eq_onesValue, Nat.add_comm]

theorem onesAdd_assoc (a b c : Half) : onesAdd (onesAdd a b) c = onesAdd a (onesAdd b c) := by
  apply BitVec.eq_of_toNat_eq
  simp only [onesAdd_toNat_eq_onesValue, onesValue_add_left, onesValue_add_right, Nat.add_assoc]

@[simp] theorem onesAdd_zero (a : Half) : onesAdd a 0#16 = a := by
  apply BitVec.eq_of_toNat_eq
  rw [onesAdd_toNat_eq_onesValue]
  exact onesValue_of_le (Nat.le_of_lt_succ a.isLt)

@[simp] theorem zero_onesAdd (a : Half) : onesAdd 0#16 a = a := by
  rw [onesAdd_comm, onesAdd_zero]

theorem onesAdd_allOnes {a : Half} (h : a ≠ 0#16) : onesAdd a 0xFFFF#16 = a := by
  have ha : a.toNat ≠ 0 := fun hzero => h (BitVec.eq_of_toNat_eq hzero)
  apply BitVec.eq_of_toNat_eq
  rw [onesAdd_toNat, BitVec.toNat_ofNat]
  split <;> omega

theorem onesAdd_not_self (a : Half) : onesAdd a (~~~ a) = 0xFFFF#16 := by
  have ha := a.isLt
  apply BitVec.eq_of_toNat_eq
  rw [onesAdd_toNat, BitVec.toNat_not, BitVec.toNat_ofNat]
  split <;> omega

theorem onesAdd_eq_zero_iff {a w : Half} : onesAdd a w = 0#16 ↔ a = 0#16 ∧ w = 0#16 := by
  simp only [← BitVec.toNat_inj, onesAdd_toNat, BitVec.toNat_ofNat]
  split <;> omega

/-! #### `ones_sum` and `fold` (R101, R102, R103) -/

@[simp] theorem exactSum_nil : exactSum [] = 0 := rfl

@[simp] theorem exactSum_cons (w : Half) (ws : List Half) : exactSum (w :: ws) = w.toNat + exactSum ws := by
  simp [exactSum]

@[simp] theorem exactSum_append (us vs : List Half) : exactSum (us ++ vs) = exactSum us + exactSum vs := by
  simp [exactSum]

theorem exactSum_perm {us vs : List Half} (h : us.Perm vs) : exactSum us = exactSum vs :=
  (h.map BitVec.toNat).sum_nat

theorem exactSum_eq_zero_iff {ws : List Half} : exactSum ws = 0 ↔ ∀ w ∈ ws, w = 0#16 := by
  simp [exactSum, List.sum_eq_zero_iff_forall_eq_nat, ← BitVec.toNat_inj]

/-- Words added to an accumulator in list order leave the value of the exact sum. -/
theorem foldl_onesAdd_toNat (a : Half) (ws : List Half) :
    (ws.foldl onesAdd a).toNat = onesValue (a.toNat + exactSum ws) := by
  induction ws generalizing a with
  | nil => exact (onesValue_of_le (Nat.le_of_lt_succ a.isLt)).symm
  | cons w ws ih =>
    rw [List.foldl_cons, ih, onesAdd_toNat_eq_onesValue, onesValue_add_left, exactSum_cons, Nat.add_assoc]

theorem onesSum_toNat (ws : List Half) : (onesSum ws).toNat = onesValue (exactSum ws) := by
  rw [onesSum, foldl_onesAdd_toNat, BitVec.toNat_ofNat, Nat.zero_mod, Nat.zero_add]

/-- The sum sees of its words whether all are zero, and their exact sum modulo 65535. -/
theorem onesSum_eq_of_exactSum {us vs : List Half} (hzero : exactSum us = 0 ↔ exactSum vs = 0)
    (hmod : exactSum us % 0xFFFF = exactSum vs % 0xFFFF) : onesSum us = onesSum vs := by
  obtain ⟨hle, hzero', hmod'⟩ := eq_onesValue_iff.mp (onesSum_toNat us)
  apply BitVec.eq_of_toNat_eq
  rw [onesSum_toNat vs, eq_onesValue_iff]
  exact ⟨hle, hzero'.trans hzero, hmod'.trans hmod⟩

theorem onesSum_eq_of_exactSum_eq {us vs : List Half} (h : exactSum us = exactSum vs) : onesSum us = onesSum vs :=
  onesSum_eq_of_exactSum (by rw [h]) (by rw [h])

theorem onesSum_append (us vs : List Half) : onesSum (us ++ vs) = onesAdd (onesSum us) (onesSum vs) := by
  apply BitVec.eq_of_toNat_eq
  rw [onesAdd_toNat_eq_onesValue, onesSum_toNat, onesSum_toNat, onesSum_toNat, onesValue_add_left, onesValue_add_right,
    exactSum_append]

theorem foldl_onesAdd (a : Half) (ws : List Half) : ws.foldl onesAdd a = onesAdd a (onesSum ws) := by
  apply BitVec.eq_of_toNat_eq
  rw [foldl_onesAdd_toNat, onesAdd_toNat_eq_onesValue, onesSum_toNat, onesValue_add_right]

theorem onesSum_eq_zero_iff {ws : List Half} : onesSum ws = 0#16 ↔ ∀ w ∈ ws, w = 0#16 := by
  obtain ⟨-, hzero, -⟩ := eq_onesValue_iff.mp (onesSum_toNat ws)
  rw [← exactSum_eq_zero_iff, ← hzero, ← BitVec.toNat_inj]
  rfl

/-- The words verify exactly when their exact sum is a multiple of 65535 other than zero (R107). -/
theorem onesSum_eq_allOnes_iff {ws : List Half} :
    onesSum ws = 0xFFFF#16 ↔ exactSum ws ≠ 0 ∧ exactSum ws % 0xFFFF = 0 := by
  rw [← BitVec.toNat_inj, onesSum_toNat, eq_comm, eq_onesValue_iff, BitVec.toNat_ofNat]
  omega

theorem onesSum_eq_iff_mod {ws : List Half} {v : Nat} (h : exactSum ws ≠ 0) (hlo : 1 ≤ v) (hhi : v ≤ 0xFFFF) :
    v % 0xFFFF = exactSum ws % 0xFFFF ↔ v = (onesSum ws).toNat := by
  rw [onesSum_toNat, eq_onesValue_iff]
  exact ⟨fun hmod => ⟨hhi, by omega, hmod⟩, fun ⟨_, _, hmod⟩ => hmod⟩

/-- With enough fuel the loop of `fold` ends with the value: each turn keeps it and makes the sum smaller (R102). -/
theorem foldLoop_eq_onesValue {fuel s : Nat} (h : s ≤ fuel + 0xFFFF) : foldLoop fuel s = onesValue s := by
  induction fuel generalizing s with
  | zero => exact (onesValue_of_le (h.trans_eq (Nat.zero_add _))).symm
  | succ fuel ih =>
    unfold foldLoop
    split
    next hcarry =>
      have hturn : (s &&& 0xFFFF) + (s >>> 16) = s % 65536 + s / 65536 := by
        rw [Nat.and_two_pow_sub_one_eq_mod s 16, Nat.shiftRight_eq_div_pow]
      rw [hturn, ih (by omega), eq_onesValue_iff]
      obtain ⟨hle, hzero, hmod⟩ := eq_onesValue_iff.mp (rfl : onesValue (s % 65536 + s / 65536) = _)
      exact ⟨hle, by omega, by omega⟩
    next hdone => exact (onesValue_of_le (by omega)).symm

theorem foldCarries_eq_onesSum (ws : List Half) : foldCarries (exactSum ws) = (onesSum ws).toNat :=
  (foldLoop_eq_onesValue (Nat.le_add_right _ _)).trans (onesSum_toNat ws).symm

/-! #### The word view (R104, R105) -/

theorem joinBytes_eq_zero_iff {hi lo : Byte} : joinBytes hi lo = 0#16 ↔ hi = 0#8 ∧ lo = 0#8 := by
  simp only [← BitVec.toNat_inj, joinBytes_toNat, BitVec.toNat_ofNat]
  omega

theorem pairWord_eq_zero_iff {o : ByteOrder} {b c : Byte} : pairWord o b c = 0#16 ↔ b = 0#8 ∧ c = 0#8 := by
  cases o with
  | be => exact joinBytes_eq_zero_iff
  | le => exact joinBytes_eq_zero_iff.trans and_comm

theorem wordView_eq_zero_iff {o : ByteOrder} {bs : List Byte} :
    (∀ w ∈ wordView o bs, w = 0#16) ↔ ∀ b ∈ bs, b = 0#8 := by
  induction bs using wordView.induct with
  | case1 => simp [wordView_nil]
  | case2 b => simp [wordView_singleton, joinBytes_eq_zero_iff]
  | case3 b c bs ih => simp [wordView_cons_cons, pairWord_eq_zero_iff, ih, and_assoc]

section
variable (s : State) (i n : Nat)

theorem State.words_add_two :
    s.words i (n + 2) = pairWord s.params.byteOrder (s.bufByte i) (s.bufByte (i + 1)) :: s.words (i + 2) n := by
  rw [State.words, State.bufBytes_succ, State.bufBytes_succ, wordView_cons_cons]
  rfl

theorem State.words_length : (s.words i n).length = (n + 1) / 2 := by
  induction n using Nat.twoStepInduction generalizing i with
  | zero => rfl
  | one => rfl
  | more n ih _ =>
    rw [State.words_add_two, List.length_cons, ih]
    omega

theorem State.words_getElem? {k : Nat} (hk : k < n / 2) :
    (s.words i n)[k]? = some (pairWord s.params.byteOrder (s.bufByte (i + 2 * k)) (s.bufByte (i + 2 * k + 1))) := by
  induction k generalizing i n with
  | zero =>
    obtain ⟨n, rfl⟩ : ∃ m, n = m + 2 := ⟨n - 2, by omega⟩
    rw [State.words_add_two]
    rfl
  | succ k ih =>
    obtain ⟨n, rfl⟩ : ∃ m, n = m + 2 := ⟨n - 2, by omega⟩
    rw [State.words_add_two, List.getElem?_cons_succ, ih _ _ (by omega), show i + 2 + 2 * k = i + 2 * (k + 1) by omega]

/-- After an even number of bytes one byte more is a word of its own, with the byte high (R105). -/
theorem State.words_succ_of_even (h : n % 2 = 0) :
    s.words i (n + 1) = s.words i n ++ [joinBytes (s.bufByte (i + n)) 0#8] := by
  induction n using Nat.twoStepInduction generalizing i with
  | zero => rfl
  | one => cases h
  | more n ih _ =>
    rw [State.words_add_two s i (n + 1), ih _ (by omega), State.words_add_two, show i + 2 + n = i + (n + 2) by omega]
    rfl

theorem State.words_of_odd (h : n % 2 = 1) :
    s.words i n = s.words i (n - 1) ++ [joinBytes (s.bufByte (i + n - 1)) 0#8] := by
  obtain ⟨n, rfl⟩ : ∃ m, n = m + 1 := ⟨n - 1, by omega⟩
  exact s.words_succ_of_even i n (by omega)

end

theorem State.frameSum_eq_zero_iff {s : State} {n : Nat} : s.frameSum n = 0#16 ↔ ∀ k, k < n → s.bufByte k = 0#8 := by
  rw [State.frameSum, onesSum_eq_zero_iff, State.words, wordView_eq_zero_iff]
  simp [State.bufBytes]

/-! #### The two byte orders (R109) -/

theorem swap16_toNat (v : Half) : (swap16 v).toNat = v.toNat % 256 * 256 + v.toNat / 256 := by
  have hv := v.isLt
  rw [swap16, joinBytes_toNat]
  simp only [BitVec.extractLsb'_toNat, Nat.shiftRight_eq_div_pow]
  omega

theorem swap16_toNat_div (v : Half) : (swap16 v).toNat / 256 = v.toNat % 256 := by
  have hv := v.isLt
  rw [swap16_toNat, Nat.mul_comm, Nat.mul_add_div (by decide)]
  omega

theorem swap16_onesAdd (a b : Half) : swap16 (onesAdd a b) = onesAdd (swap16 a) (swap16 b) := by
  have ha := a.isLt
  have hb := b.isLt
  apply BitVec.eq_of_toNat_eq
  rw [swap16_toNat, onesAdd_toNat, onesAdd_toNat, swap16_toNat, swap16_toNat]
  split <;> split <;> omega

theorem swap16_not (v : Half) : swap16 (~~~ v) = ~~~ swap16 v := by
  have hv := v.isLt
  apply BitVec.eq_of_toNat_eq
  rw [swap16_toNat, BitVec.toNat_not, BitVec.toNat_not, swap16_toNat]
  omega

theorem pairWord_le (b c : Byte) : pairWord .le b c = swap16 (pairWord .be b c) := by
  have hb := b.isLt
  have hc := c.isLt
  apply BitVec.eq_of_toNat_eq
  rw [swap16_toNat, pairWord, pairWord, joinBytes_toNat, joinBytes_toNat]
  omega

theorem onesSum_map_swap16 (ws : List Half) : onesSum (ws.map swap16) = swap16 (onesSum ws) := by
  have hfold := List.foldl_hom (g₁ := onesAdd) (g₂ := fun a w => onesAdd a (swap16 w)) (l := ws) (init := 0#16) swap16
    fun a w => (swap16_onesAdd a w).symm
  rw [onesSum, List.foldl_map]
  exact hfold

theorem wordView_le_of_even {bs : List Byte} (h : bs.length % 2 = 0) :
    wordView .le bs = (wordView .be bs).map swap16 := by
  induction bs using wordView.induct with
  | case1 => rfl
  | case2 b => cases h
  | case3 b c bs ih =>
    rw [wordView_cons_cons, wordView_cons_cons, pairWord_le, ih ((Nat.add_mod_right _ 2).symm.trans h), List.map_cons]

theorem onesSum_wordView_le_of_even {bs : List Byte} (h : bs.length % 2 = 0) :
    onesSum (wordView .le bs) = swap16 (onesSum (wordView .be bs)) := by
  rw [wordView_le_of_even h, onesSum_map_swap16]

/-- A word stored in BE and the swapped word stored in LE are the same two bytes. -/
theorem bufByte_memWrite_swap16 {s t : State} {i k : Nat} (v : Half) (hs : s.params.byteOrder = .be)
    (ht : t.params.byteOrder = .le) (hk : k = i ∨ k = i + 1) :
    (s.memWrite i 2 v.toNat).bufByte k = (t.memWrite i 2 (swap16 v).toNat).bufByte k := by
  have hv := v.isLt
  rw [State.bufByte_memWrite2, State.bufByte_memWrite2, if_pos (by omega), if_pos (by omega), hs, ht]
  apply BitVec.eq_of_toNat_eq
  obtain rfl | rfl := hk
  · simp [byteShift, Nat.shiftRight_eq_div_pow, swap16_toNat]
  · simp [byteShift, Nat.shiftRight_eq_div_pow, swap16_toNat_div]

/-! #### A changed byte (R110) -/

/-- A pair of bytes as a number: one counts 256 times, which one is the byte order's choice (R104). -/
theorem pairWord_toNat (o : ByteOrder) :
    ∃ first second, (first = 1 ∨ first = 256) ∧ (second = 1 ∨ second = 256) ∧
      ∀ b c : Byte, (pairWord o b c).toNat = first * b.toNat + second * c.toNat := by
  cases o with
  | be => exact ⟨256, 1, .inr rfl, .inl rfl, fun b c => by rw [pairWord, joinBytes_toNat]; omega⟩
  | le => exact ⟨1, 256, .inl rfl, .inr rfl, fun b c => by rw [pairWord, joinBytes_toNat]; omega⟩

/-- A byte put for another changes the exact sum by its difference, in the low or the high half of a word. -/
theorem exactSum_wordView_set (o : ByteOrder) {bs : List Byte} {k : Nat} (b : Byte) (h : k < bs.length) :
    ∃ weight, (weight = 1 ∨ weight = 256) ∧
      exactSum (wordView o (bs.set k b)) + weight * bs[k].toNat = exactSum (wordView o bs) + weight * b.toNat := by
  induction bs using wordView.induct generalizing k with
  | case1 => cases h
  | case2 c =>
    obtain rfl : k = 0 := by simpa using h
    refine ⟨256, .inr rfl, ?_⟩
    simp [wordView_singleton, joinBytes_toNat]
    omega
  | case3 c d bs ih =>
    obtain ⟨first, second, hfirst, hsecond, hpair⟩ := pairWord_toNat o
    match k with
    | 0 =>
      refine ⟨first, hfirst, ?_⟩
      simp only [List.set_cons_zero, List.getElem_cons_zero, wordView_cons_cons, exactSum_cons, hpair]
      omega
    | 1 =>
      refine ⟨second, hsecond, ?_⟩
      simp only [List.set_cons_succ, List.set_cons_zero, List.getElem_cons_succ, List.getElem_cons_zero,
        wordView_cons_cons, exactSum_cons, hpair]
      omega
    | k + 2 =>
      obtain ⟨weight, hweight, hsum⟩ := ih (k := k) (by simpa using h)
      refine ⟨weight, hweight, ?_⟩
      simp only [List.set_cons_succ, List.getElem_cons_succ, wordView_cons_cons, exactSum_cons]
      omega

theorem State.bufBytes_putByte (s : State) (i n k : Nat) (b : Byte) :
    (s.putByte (i + k) b).bufBytes i n = (s.bufBytes i n).set k b := by
  apply List.ext_getElem
  · simp [State.bufBytes]
  · intro j _ _
    simp [State.bufBytes, State.bufByte_putByte, List.getElem_set, eq_comm]

/-- Bytes that verify do not with one of them changed: its difference, in either half of a word, is no multiple of 65535. -/
theorem State.Verifies.not_putByte {s : State} {n k : Nat} {b : Byte} (h : s.Verifies n) (hk : k < n)
    (hb : b ≠ s.bufByte k) : ¬ (s.putByte k b).Verifies n := by
  have hne : b.toNat ≠ (s.bufByte k).toNat := fun heq => hb (BitVec.eq_of_toNat_eq heq)
  have hnew := b.isLt
  have hold := (s.bufByte k).isLt
  have hset := s.bufBytes_putByte 0 n k b
  rw [Nat.zero_add] at hset
  obtain ⟨weight, hweight, hsum⟩ := exactSum_wordView_set s.params.byteOrder b
    (show k < (s.bufBytes 0 n).length by rwa [State.bufBytes_length])
  have hbyte : (s.bufBytes 0 n)[k]'(by rwa [State.bufBytes_length]) = s.bufByte k := by simp [State.bufBytes]
  rw [hbyte] at hsum
  intro h'
  obtain ⟨-, hmod⟩ := onesSum_eq_allOnes_iff.mp h
  obtain ⟨-, hmod'⟩ := onesSum_eq_allOnes_iff.mp h'
  simp only [State.words, State.putByte_params, hset] at hmod hmod'
  obtain rfl | rfl := hweight <;> omega

theorem xor_bit_ne_self (b : Byte) {j : Nat} (h : j < 8) : b ^^^ (1#8 <<< j) ≠ b := by
  intro heq
  have hbit := congrArg (BitVec.getLsbD · j) heq
  simp [h] at hbit

/-! #### What the checksum commands answer (R111 to R114) -/

theorem statusOk_complete (s : State) (v : Bool) : StatusOk s (s.complete v) v :=
  ⟨by simp [ResultCode.code], by simp, fun _ hk => getLsbD_complete s v hk⟩

theorem statusOk_setAccOk (s : State) (v : Half) : StatusOk s (s.setAccOk v) false :=
  statusOk_complete { s with acc := v } false

/-- A checksum command changes nothing but ACC and STATUS. -/
theorem State.setAccOk_frame (s : State) (v : Half) :
    s.setAccOk v = { s with acc := (s.setAccOk v).acc, status := (s.setAccOk v).status } ∧
      ∀ i, (s.setAccOk v).bufByte i = s.bufByte i :=
  ⟨rfl, fun _ => rfl⟩

theorem State.dataHalf_toNat (s : State) : s.dataHalf.toNat = s.data.toNat % 65536 := by
  simp [State.dataHalf, BitVec.extractLsb'_toNat]

theorem State.dataHighByte_toNat (s : State) : s.dataHighByte.toNat = s.data.toNat % 256 * 256 := by
  simp [State.dataHighByte, joinBytes_toNat, BitVec.extractLsb'_toNat]

theorem not_eq_zero_iff {v : Half} : ~~~ v = 0#16 ↔ v = 0xFFFF#16 := BitVec.not_eq_comm

theorem State.readReg_ckResult_eq_zero_iff {s : State} : s.readReg .ckResult = 0#32 ↔ s.acc = 0xFFFF#16 := by
  have hlt := (~~~ s.acc).isLt
  rw [← not_eq_zero_iff, State.readReg, ← BitVec.toNat_inj, ← BitVec.toNat_inj, BitVec.toNat_setWidth,
    Nat.mod_eq_of_lt (by omega), BitVec.toNat_ofNat, BitVec.toNat_ofNat]

theorem ckBufState_of_le {s : State} (h : s.frameLen.toNat ≤ s.params.bufSize.toNat) :
    ckBufState s = s.setAccOk (onesAdd s.acc (s.frameSum s.frameLen.toNat)) := by
  obtain ⟨hover, -⟩ | ⟨-, heq⟩ := ckBufState_cases s
  · omega
  · exact heq

theorem ckBufState_of_gt {s : State} (h : s.params.bufSize.toNat < s.frameLen.toNat) :
    ckBufState s = s.clearValid.raise .eOversize := by
  obtain ⟨-, heq⟩ | ⟨hfits, -⟩ := ckBufState_cases s
  · exact heq
  · omega

/-! #### Bytes added one word at a time (R112, R113, R114) -/

theorem exec_ckAdd16_word (s : State) (w : Half) :
    exec .ckAdd16 { s with data := w.setWidth 32 } =
      .next (({ s with data := w.setWidth 32 } : State).setAccOk (onesAdd s.acc w)) := by
  rw [exec_ckAdd16, State.dataHalf_of_data_eq rfl]

theorem exec_ckAdd8h_byte (s : State) (b : Byte) :
    exec .ckAdd8h { s with data := b.setWidth 32 } =
      .next (({ s with data := b.setWidth 32 } : State).setAccOk (onesAdd s.acc (joinBytes b 0#8))) := by
  rw [exec_ckAdd8h, State.dataHighByte_of_data_eq rfl, joinBytes]

theorem streamWords_acc (s : State) (ws : List Half) : (streamWords s ws).acc = ws.foldl onesAdd s.acc := by
  induction ws generalizing s with
  | nil => rfl
  | cons w ws ih =>
    rw [streamWords, exec_ckAdd16_word, List.foldl_cons]
    exact ih _

theorem streamBuffer_acc (s : State) (n : Nat) : (streamBuffer s n).acc = onesAdd s.acc (s.frameSum n) := by
  have hstream : (streamWords s (s.words 0 (n - n % 2))).acc = onesAdd s.acc (s.frameSum (n - n % 2)) :=
    (streamWords_acc s _).trans (foldl_onesAdd _ _)
  simp only [streamBuffer]
  split
  next hodd =>
    have hlast : s.frameSum n = onesAdd (s.frameSum (n - 1)) (joinBytes (s.bufByte (n - 1)) 0#8) := by
      rw [State.frameSum, s.words_of_odd 0 n hodd, onesSum_append_singleton, Nat.zero_add]
      rfl
    rw [hodd] at hstream ⊢
    rw [exec_ckAdd8h_byte, State.setAccOk_acc, hstream, hlast, onesAdd_assoc]
  next heven => rw [hstream, show n - n % 2 = n by omega]

/-! #### States that differ in the buffer (R114, R135, R140) -/

/-- The state with other written bytes and other unspecified ones. -/
def State.withBuffer (s : State) (m : List Host.Cell) (l : Nat) : State := { s with pktBuf := m, launch := l }

/-- Two states that agree in everything but the content of the buffer, and in the bytes at the indices with `P`. -/
structure AgreesOn (P : Nat → Prop) (s t : State) : Prop where
  frame : ∃ m l, t = s.withBuffer m l
  bytes : ∀ i, P i → t.bufByte i = s.bufByte i

theorem sameButBuffer_iff_agreesOn {lo hi : Nat} {s t : State} :
    SameButBuffer lo hi s t ↔ AgreesOn (fun i => lo ≤ i ∧ i < hi) s t := by
  constructor
  · rintro ⟨heq, hbytes⟩
    exact ⟨⟨_, _, heq⟩, fun i ⟨hlo, hhi⟩ => hbytes i hlo hhi⟩
  · rintro ⟨⟨m, l, rfl⟩, hbytes⟩
    exact ⟨rfl, fun i hlo hhi => hbytes i ⟨hlo, hhi⟩⟩

section
variable {P Q : Nat → Prop} {s t : State} {n : Nat}

theorem AgreesOn.mono (h : AgreesOn P s t) (hPQ : ∀ i, Q i → P i) : AgreesOn Q s t :=
  ⟨h.frame, fun i hi => h.bytes i (hPQ i hi)⟩

theorem AgreesOn.params (h : AgreesOn P s t) : t.params = s.params := by
  obtain ⟨m, l, rfl⟩ := h.frame
  rfl

theorem AgreesOn.frameSum (h : AgreesOn (· < n) s t) : t.frameSum n = s.frameSum n :=
  State.frameSum_congr h.params h.bytes

theorem AgreesOn.memRead (h : AgreesOn (· < n) s t) {i len : Nat} (hi : i + len ≤ n) :
    t.memRead i len = s.memRead i len :=
  State.memRead_congr h.params fun k _ hk => h.bytes k (by omega)

theorem AgreesOn.field32 (h : AgreesOn (· < n) s t) {i : Nat} (hi : i + 4 ≤ n) : t.field32 i = s.field32 i :=
  congrArg (BitVec.ofNat 32) (h.memRead hi)

theorem AgreesOn.field16 (h : AgreesOn (· < n) s t) {i : Nat} (hi : i + 2 ≤ n) : t.field16 i = s.field16 i :=
  congrArg (BitVec.ofNat 16) (h.memRead hi)

/-- States that agree also agree on the bytes of a field written in both. -/
theorem AgreesOn.memWrite (h : AgreesOn P s t) {i len : Nat} (hlen : len = 2 ∨ len = 4) (v : Nat) :
    AgreesOn (fun j => P j ∨ (i ≤ j ∧ j < i + len)) (s.memWrite i len v) (t.memWrite i len v) := by
  refine ⟨⟨(t.memWrite i len v).pktBuf, t.launch, ?_⟩, fun j hj => ?_⟩
  · obtain ⟨m, l, rfl⟩ := h.frame
    rw [s.memWrite_eq, (s.withBuffer m l).memWrite_eq]
    rfl
  · obtain rfl | rfl := hlen
    all_goals
      simp only [State.bufByte_memWrite2, State.bufByte_memWrite4, h.params]
      split
      · rfl
      · exact h.bytes j (hj.resolve_right ‹_›)

theorem AgreesOn.frameLen (h : AgreesOn P s t) : t.frameLen = s.frameLen := by
  obtain ⟨m, l, rfl⟩ := h.frame
  rfl

theorem AgreesOn.hdrCmdstat (h : AgreesOn P s t) : t.hdrCmdstat = s.hdrCmdstat := by
  obtain ⟨m, l, rfl⟩ := h.frame
  rfl

theorem AgreesOn.hdrPlen (h : AgreesOn P s t) : t.hdrPlen = s.hdrPlen := by
  obtain ⟨m, l, rfl⟩ := h.frame
  rfl

theorem AgreesOn.acc (h : AgreesOn P s t) : t.acc = s.acc := by
  obtain ⟨m, l, rfl⟩ := h.frame
  rfl

theorem AgreesOn.withAcc (h : AgreesOn P s t) (a : Half) :
    AgreesOn P ({ s with acc := a } : State) ({ t with acc := a } : State) := by
  refine ⟨?_, h.bytes⟩
  obtain ⟨m, l, rfl⟩ := h.frame
  exact ⟨m, l, rfl⟩

theorem AgreesOn.complete (h : AgreesOn P s t) (v : Bool) : AgreesOn P (s.complete v) (t.complete v) := by
  refine ⟨?_, h.bytes⟩
  obtain ⟨m, l, rfl⟩ := h.frame
  exact ⟨m, l, rfl⟩

theorem AgreesOn.raise_eq (h : AgreesOn P s t) (e : ResultCode) :
    t.clearValid.raise e = (s.clearValid.raise e).withBuffer t.pktBuf t.launch := by
  obtain ⟨m, l, rfl⟩ := h.frame
  rfl

theorem AgreesOn.setAccOk_eq (h : AgreesOn P s t) (v : Half) :
    t.setAccOk v = (s.setAccOk v).withBuffer t.pktBuf t.launch := by
  obtain ⟨m, l, rfl⟩ := h.frame
  rfl

theorem AgreesOn.ckBufState_eq (h : AgreesOn (· < s.frameLen.toNat) s t) :
    ckBufState t = (ckBufState s).withBuffer t.pktBuf t.launch := by
  by_cases hsize : s.frameLen.toNat ≤ s.params.bufSize.toNat
  · rw [ckBufState_of_le hsize, ckBufState_of_le (by rwa [h.frameLen, h.params]), h.acc, h.frameLen, h.frameSum]
    exact h.setAccOk_eq _
  · have hover := Nat.lt_of_not_le hsize
    rw [ckBufState_of_gt hover, ckBufState_of_gt (by rwa [h.frameLen, h.params])]
    exact h.raise_eq _

theorem AgreesOn.extractHeader_complete_eq (h : AgreesOn (· < 14) s t) (v : Bool) :
    t.extractHeader.complete v = (s.extractHeader.complete v).withBuffer t.pktBuf t.launch := by
  have hcmdstat := h.field32 (i := 4) (by decide)
  have hplen := h.field32 (i := 8) (by decide)
  have hcksum := h.field16 (i := 12) (by decide)
  obtain ⟨m, l, rfl⟩ := h.frame
  simp only [State.extractHeader, hcmdstat, hplen, hcksum]
  rfl

theorem AgreesOn.checkSum_eq (h : AgreesOn (· < n) s t) (hn : 14 ≤ n) :
    t.checkSum n = (s.checkSum n).withBuffer t.pktBuf t.launch := by
  simp only [State.checkSum, h.frameSum]
  split
  · exact (h.withAcc _).raise_eq .eCksum
  · exact ((h.withAcc _).mono fun i hi => hi.trans_le hn).extractHeader_complete_eq true

theorem AgreesOn.frDecodeState_eq (h : AgreesOn (· < min s.frameLen.toNat s.params.bufSize.toNat) s t)
    (hwf : s.params.wf) : frDecodeState t = (frDecodeState s).withBuffer t.pktBuf t.launch := by
  simp only [frDecodeState, h.frameLen, h.params]
  by_cases hshort : s.frameLen.toNat < 4
  · simp only [hshort, if_true]
    exact h.raise_eq .eLen
  simp only [hshort, if_false, h.field32 (show 0 + 4 ≤ min s.frameLen.toNat s.params.bufSize.toNat by omega)]
  by_cases hsig : s.field32 0 ≠ s.params.signature
  · simp only [if_pos hsig]
    exact h.raise_eq .eSig
  by_cases hheader : s.frameLen.toNat < 14
  · simp only [if_neg hsig, hheader, if_true]
    exact h.raise_eq .eLen
  simp only [if_neg hsig, hheader, if_false,
    h.field32 (show 8 + 4 ≤ min s.frameLen.toNat s.params.bufSize.toNat by omega)]
  by_cases hlen : s.frameLen.toNat ≠ 14 + (s.field32 8).toNat ∨ s.frameLen.toNat > s.params.bufSize.toNat
  · simp only [if_pos hlen]
    exact h.raise_eq .eLen
  · simp only [if_neg hlen]
    exact (h.mono fun i (hi : i < s.frameLen.toNat) => by omega).checkSum_eq (by omega)

/-- FR_ENCODE's header overwrites the bytes below the payload. -/
theorem AgreesOn.stampHeader (h : AgreesOn (fun i => 14 ≤ i ∧ i < n) s t) :
    AgreesOn (· < n) s.stampHeader t.stampHeader := by
  rw [State.stampHeader, State.stampHeader, h.params, h.hdrCmdstat, h.hdrPlen]
  exact ((((h.memWrite (.inr rfl) _).memWrite (.inr rfl) _).memWrite (.inr rfl) _).memWrite (.inl rfl) _).mono
    fun i hi => by omega

theorem AgreesOn.stampChecksum (h : AgreesOn (· < n) s t) : AgreesOn (· < n) (s.stampChecksum n) (t.stampChecksum n) := by
  obtain ⟨⟨m, l, hframe⟩, hbytes⟩ := h.memWrite (i := 12) (.inl rfl) (~~~ s.frameSum n).toNat
  simp only [State.stampChecksum, h.frameSum]
  exact ⟨⟨m, l, by rw [hframe]; rfl⟩, fun i hi => hbytes i (.inl hi)⟩

theorem AgreesOn.frEncodeState (h : AgreesOn (fun i => 14 ≤ i ∧ i < 14 + s.hdrPlen.toNat) s t)
    (hsize : 14 + s.hdrPlen.toNat ≤ s.params.bufSize.toNat) :
    AgreesOn (· < 14 + s.hdrPlen.toNat) (frEncodeState s) (frEncodeState t) := by
  simp only [Machine.frEncodeState, h.hdrPlen, h.params, gt_iff_lt, if_neg (Nat.not_lt.mpr hsize)]
  exact h.stampHeader.stampChecksum.complete false

end

/-! #### The statements -/

/-- Settles O16: the operand is DATA[15:0]. -/
theorem ckAdd16AddsTheDataWord : Obligations.CkAdd16AddsTheDataWord := by
  refine fun s => ⟨rfl, _, exec_ckAdd16 s, ?_, statusOk_setAccOk s _, s.setAccOk_frame _⟩
  rw [State.setAccOk_acc, onesAdd_toNat_carry, State.dataHalf_toNat]

/-- Settles O17: the operand is DATA[7:0] as a high byte. -/
theorem ckAdd8hAddsAHighByte : Obligations.CkAdd8hAddsAHighByte := by
  refine fun s => ⟨rfl, _, exec_ckAdd8h s, ?_, statusOk_setAccOk s _, s.setAccOk_frame _⟩
  rw [State.setAccOk_acc, onesAdd_toNat_carry, State.dataHighByte_toNat]

/-- Settles O18: the two cases of `ckBufState`; addition word by word is addition of the sum. -/
theorem ckBufAddsTheBuffer : Obligations.CkBufAddsTheBuffer := by
  refine fun s => ⟨rfl, fun hsize => ?_, fun hover => ?_⟩
  · refine ⟨_, (exec_ckBuf s).trans (congrArg _ (ckBufState_of_le hsize)), rfl, fun hzero => ?_,
      (streamBuffer_acc s _).symm, fun hacc hverifies => ?_, statusOk_setAccOk s _, s.setAccOk_frame _⟩
    · rw [State.setAccOk_acc, hzero]
      exact onesAdd_zero s.acc
    · have hsum : onesAdd s.acc (s.frameSum s.frameLen.toNat) = 0xFFFF#16 := by rw [hacc, zero_onesAdd, hverifies]
      exact ⟨hsum, State.readReg_ckResult_eq_zero_iff.mpr hsum⟩
  · exact ⟨_, (exec_ckBuf s).trans (congrArg _ (ckBufState_of_gt hover)), statusError_raise s .eOversize, rfl⟩

/-- Settles O19: the accumulator after the two commands is the sum of the bytes. -/
theorem clearAndSumShowVerification : Obligations.ClearAndSumShowVerification := by
  intro s hsize
  have hacc : (ckBufState (s.setAccOk 0#16)).acc = s.frameSum s.frameLen.toNat := by
    rw [ckBufState_of_le (s := s.setAccOk 0#16) hsize, State.setAccOk_acc, State.setAccOk_acc, zero_onesAdd]
    rfl
  refine ⟨_, _, exec_ckClr s, exec_ckBuf _, ?_, ?_, not_eq_zero_iff.symm⟩
  · rw [hacc]
  · rw [State.readReg_ckResult_eq_zero_iff, hacc]

/-- Settles O20: the laws are those of addition of exact sums and of complements to 65535. -/
theorem onesAddLaws : Obligations.OnesAddLaws := fun a b c =>
  ⟨onesAdd_comm a b, onesAdd_assoc a b c, onesAdd_zero a, onesAdd_allOnes, zero_onesAdd _, onesAdd_not_self a⟩

/-- Settles O21: the closed form is `onesValue` of the exact sum, which neither order nor a split of the list changes. -/
theorem onesSumClosedForm : Obligations.OnesSumClosedForm := by
  exact ⟨fun ws => ⟨onesSum_toNat ws, onesSum_eq_zero_iff, fun hne v hlo hhi => onesSum_eq_iff_mod hne hlo hhi⟩,
    fun us vs hperm => onesSum_eq_of_exactSum_eq (exactSum_perm hperm), onesSum_append, fun _ _ => onesAdd_eq_zero_iff⟩

/-- Settles O22: each turn of the loop keeps the value of the exact sum. -/
theorem foldEqualsOnesSum : Obligations.FoldEqualsOnesSum := fun ws =>
  ⟨foldCarries_eq_onesSum ws, (foldCarries_eq_onesSum ws).trans_le (Nat.le_of_lt_succ (onesSum ws).isLt)⟩

/-- Settles O23: an odd last byte follows the words of an even number of bytes, and is a word of its own. -/
theorem wordViewOfTheBuffer : Obligations.WordViewOfTheBuffer := by
  refine fun s i n => ⟨s.words_length i n, fun k hk => ?_, fun hodd => ?_⟩
  · rw [s.words_getElem? i n hk]
    cases s.params.byteOrder <;> rfl
  · have hlength : n / 2 = (s.words i (n - 1)).length := by
      rw [s.words_length]
      omega
    rw [s.words_of_odd i n hodd, hlength, List.getElem?_concat_length]
    rfl

/-- Settles O24: the sum is zero only for zero bytes. -/
theorem checksumIsTheComplement : Obligations.ChecksumIsTheComplement := by
  refine fun s n => ⟨rfl, (by decide : ~~~ 0#16 = 0xFFFF#16), ?_⟩
  rw [← State.frameSum_eq_zero_iff]
  exact BitVec.not_inj (y := 0#16)

/-- Settles O25: byte-swapping commutes with addition; in the one byte 0x01 both orders see the word 0x0100. -/
theorem littleEndianSumIsTheSwappedSum : Obligations.LittleEndianSumIsTheSwappedSum := by
  refine ⟨fun bs heven => ⟨onesSum_wordView_le_of_even heven, fun s t k hs ht hk => ?_⟩,
    [0x01#8], by decide, by decide⟩
  rw [onesSum_wordView_le_of_even heven, ← swap16_not]
  exact bufByte_memWrite_swap16 _ hs ht hk

/-- Settles O26: a flipped bit changes a byte; the exchanges keep the exact sum, or change it by 65535 away from zero. -/
theorem sumSeesEverySingleBitFlip : Obligations.SumSeesEverySingleBitFlip := by
  refine ⟨fun s n k j hk hj h => h.not_putByte hk (xor_bit_ne_self _ hj), fun us vs xs a b => ?_, fun us vs hne => ?_⟩
  · apply onesSum_eq_of_exactSum_eq
    simp only [exactSum_append, exactSum_cons]
    omega
  · have hpos : exactSum (us ++ 0x0000#16 :: vs) ≠ 0 := mt (onesSum_eq_zero_iff.mpr <| exactSum_eq_zero_iff.mp ·) hne
    have hsum : exactSum (us ++ 0xFFFF#16 :: vs) = exactSum (us ++ 0x0000#16 :: vs) + 0xFFFF := by
      simp only [exactSum_append, exactSum_cons, BitVec.toNat_ofNat]
      omega
    exact onesSum_eq_of_exactSum (by omega) (by omega)

/-- Settles O38: what a command reads of the buffer are the bytes the two states agree on. -/
theorem commandsReadOnlyTheirBytes : Obligations.CommandsReadOnlyTheirBytes := by
  refine fun s s' => ⟨fun h => ?_, fun hwf h => ?_, fun hsize h => ?_⟩
  · have hagree := (sameButBuffer_iff_agreesOn.mp h).mono fun i hi => ⟨i.zero_le, hi⟩
    exact ⟨_, exec_ckBuf s, (exec_ckBuf s').trans (congrArg _ hagree.ckBufState_eq)⟩
  · have hagree := (sameButBuffer_iff_agreesOn.mp h).mono fun i hi => ⟨i.zero_le, hi⟩
    exact ⟨_, exec_frDecode s, (exec_frDecode s').trans (congrArg _ (hagree.frDecodeState_eq hwf))⟩
  · have hagree := (sameButBuffer_iff_agreesOn.mp h).frEncodeState hsize
    exact ⟨_, _, exec_frEncode s, exec_frEncode s', sameButBuffer_iff_agreesOn.mpr (hagree.mono fun i hi => hi.2)⟩

/-- Settles O15: CK_CLR is `State.setAccOk` with zero. -/
theorem ckClrClearsTheAccumulator : Obligations.CkClrClearsTheAccumulator := fun s =>
  ⟨rfl, _, exec_ckClr s, rfl, (by decide : (~~~ 0#16).setWidth 32 = 0x0000FFFF#32), statusOk_setAccOk s _, s.setAccOk_frame _⟩

end Sys2Proof.Machine

/-! ### The framer (spec/41_framer.md)

FR_ENCODE and FR_DECODE are described once each: `EncodedFrame` says what a stamped frame is, and one equation per verdict
gives the answer of FR_DECODE. The checksum field is one word of the sum (`State.frameSum_eq_onesAdd_field16`), which is why a
stamped frame verifies. -/

namespace Sys2Proof.Machine

/-! #### Fields of the buffer (R130) -/

/-- Bytes stored one after the other from an index on, and no others. -/
theorem State.bufByte_foldl_putByte (s : State) (i n j : Nat) (f : Nat → Byte) :
    ((List.range n).foldl (fun t k => t.putByte (i + k) (f k)) s).bufByte j =
      if i ≤ j ∧ j < i + n then f (j - i) else s.bufByte j := by
  induction n with
  | zero => simp
  | succ n ih =>
    rw [List.range_succ, List.foldl_append, List.foldl_cons, List.foldl_nil, State.bufByte_putByte, ih]
    by_cases hj : j = i + n
    · simp [hj]
    · rw [if_neg hj]
      exact if_congr (by omega) rfl rfl

/-- The bytes a MemWrite of any width stores, and no others. -/
theorem State.bufByte_memWrite (s : State) (i n v j : Nat) :
    (s.memWrite i n v).bufByte j =
      if i ≤ j ∧ j < i + n then BitVec.ofNat 8 (v >>> byteShift s.params.byteOrder n (j - i)) else s.bufByte j :=
  s.bufByte_foldl_putByte i n j _

theorem State.bufByte_memWrite_inside (s : State) (i v : Nat) {n k : Nat} (h : k < n) :
    ((s.memWrite i n v).bufByte (i + k)).toNat = (v >>> byteShift s.params.byteOrder n k) % 256 := by
  rw [State.bufByte_memWrite, if_pos (by omega), Nat.add_sub_cancel_left, BitVec.toNat_ofNat]

theorem State.bufByte_memWrite_outside (s : State) (v : Nat) {i n j : Nat} (h : j < i ∨ i + n ≤ j) :
    (s.memWrite i n v).bufByte j = s.bufByte j := by
  rw [State.bufByte_memWrite, if_neg (by omega)]

section
variable {s : State} (i : Nat)

theorem State.memRead_four_be (h : s.params.byteOrder = .be) :
    s.memRead i 4 = ((s.bufByte i).toNat <<< 24) + ((s.bufByte (i + 1)).toNat <<< 16) +
      ((s.bufByte (i + 2)).toNat <<< 8) + (s.bufByte (i + 3)).toNat := by
  simp [State.memRead, List.range_succ, byteShift, h, Nat.add_assoc]

theorem State.memRead_four_le (h : s.params.byteOrder = .le) :
    s.memRead i 4 = (s.bufByte i).toNat + ((s.bufByte (i + 1)).toNat <<< 8) +
      ((s.bufByte (i + 2)).toNat <<< 16) + ((s.bufByte (i + 3)).toNat <<< 24) := by
  simp [State.memRead, List.range_succ, byteShift, h, Nat.add_assoc]

theorem State.memRead_two_be (h : s.params.byteOrder = .be) :
    s.memRead i 2 = ((s.bufByte i).toNat <<< 8) + (s.bufByte (i + 1)).toNat := by
  simp [State.memRead, List.range_succ, byteShift, h]

theorem State.memRead_two_le (h : s.params.byteOrder = .le) :
    s.memRead i 2 = (s.bufByte i).toNat + ((s.bufByte (i + 1)).toNat <<< 8) := by
  simp [State.memRead, List.range_succ, byteShift, h]

end

/-- The bytes of a number in rising weight are the number, modulo its width. -/
theorem sum_bytes_eq_mod (v n : Nat) :
    ((List.range n).map fun k => ((v >>> (8 * k)) % 256) <<< (8 * k)).sum = v % 2 ^ (8 * n) := by
  induction n with
  | zero => simp [Nat.mod_one]
  | succ n ih =>
    rw [List.range_succ, List.map_append, List.sum_append, ih, Nat.mul_succ, Nat.pow_add, Nat.mod_mul,
      List.map_singleton, List.sum_singleton, Nat.shiftLeft_eq, Nat.shiftRight_eq_div_pow, Nat.mul_comm (2 ^ (8 * n))]

/-- Byte `k` in one order is byte `n - 1 - k` in the other. -/
theorem sum_byteShift (o : ByteOrder) (n : Nat) (f : Nat → Nat) :
    ((List.range n).map fun k => f (byteShift o n k)).sum = ((List.range n).map fun k => f (8 * k)).sum := by
  cases o with
  | le => rfl
  | be =>
    exact Finset.sum_range_reflect (fun k => f (8 * k)) n

theorem State.memRead_memWrite (s : State) (i n v : Nat) : (s.memWrite i n v).memRead i n = v % 2 ^ (8 * n) := by
  have hbytes : (s.memWrite i n v).memRead i n = ((List.range n).map fun k =>
      (fun shift => ((v >>> shift) % 256) <<< shift) (byteShift s.params.byteOrder n k)).sum := by
    rw [State.memRead, State.memWrite_params]
    exact congrArg List.sum <| List.map_congr_left fun k hk => by
      rw [s.bufByte_memWrite_inside i v (List.mem_range.mp hk)]
  rw [hbytes, sum_byteShift s.params.byteOrder n fun shift => ((v >>> shift) % 256) <<< shift, sum_bytes_eq_mod]


theorem State.field32_memWrite (s : State) (i : Nat) (v : Word) : (s.memWrite i 4 v.toNat).field32 i = v := by
  rw [State.field32, State.memRead_memWrite, Nat.mod_eq_of_lt v.isLt, BitVec.ofNat_toNat, BitVec.setWidth_eq]

theorem State.field16_memWrite (s : State) (i : Nat) (v : Half) : (s.memWrite i 2 v.toNat).field16 i = v := by
  rw [State.field16, State.memRead_memWrite, Nat.mod_eq_of_lt v.isLt, BitVec.ofNat_toNat, BitVec.setWidth_eq]

/-- A field depends on its own bytes and on the byte order alone. -/
theorem State.field32_congr {s t : State} {i : Nat} (ho : t.params = s.params)
    (h : ∀ k, i ≤ k → k < i + 4 → t.bufByte k = s.bufByte k) : t.field32 i = s.field32 i :=
  congrArg (BitVec.ofNat 32) (State.memRead_congr ho h)

theorem State.field32_memWrite_outside (s : State) (v : Nat) {i j n : Nat} (h : i + 4 ≤ j ∨ j + n ≤ i) :
    (s.memWrite j n v).field32 i = s.field32 i :=
  State.field32_congr (s.memWrite_params j n v) fun _ _ _ => s.bufByte_memWrite_outside v (by omega)

theorem State.field32_putByte_outside (s : State) (b : Byte) {i k : Nat} (h : k < i ∨ i + 4 ≤ k) :
    (s.putByte k b).field32 i = s.field32 i :=
  State.field32_congr (s.putByte_params k b) fun _ _ _ => s.bufByte_putByte_ne b (by omega)

theorem State.field32_eq_zero {s : State} {i : Nat} (h : ∀ k, i ≤ k → k < i + 4 → s.bufByte k = 0#8) :
    s.field32 i = 0#32 := by
  simp [State.field32, State.memRead, List.range_succ, h]

/-- Each byte of a field is found again in its value. -/
theorem State.bufByte_toNat_eq_field32 (s : State) (i : Nat) {k : Nat} (hk : k < 4) :
    (s.bufByte (i + k)).toNat = ((s.field32 i).toNat >>> byteShift s.params.byteOrder 4 k) % 256 := by
  have h0 := (s.bufByte i).isLt
  have h1 := (s.bufByte (i + 1)).isLt
  have h2 := (s.bufByte (i + 2)).isLt
  have h3 := (s.bufByte (i + 3)).isLt
  rw [State.field32, BitVec.toNat_ofNat]
  cases ho : s.params.byteOrder with
  | be =>
    rw [State.memRead_four_be i ho]
    interval_cases k <;> simp [byteShift, Nat.shiftLeft_eq, Nat.shiftRight_eq_div_pow] <;> omega
  | le =>
    rw [State.memRead_four_le i ho]
    interval_cases k <;> simp [byteShift, Nat.shiftLeft_eq, Nat.shiftRight_eq_div_pow] <;> omega

/-- A changed byte changes the field it is in. -/
theorem State.field32_putByte_ne (s : State) (i : Nat) {k : Nat} {b : Byte} (hk : k < 4) (hb : b ≠ s.bufByte (i + k)) :
    (s.putByte (i + k) b).field32 i ≠ s.field32 i := by
  intro heq
  have hbyte := (s.putByte (i + k) b).bufByte_toNat_eq_field32 i hk
  rw [heq, State.bufByte_putByte_same, State.putByte_params, ← s.bufByte_toNat_eq_field32 i hk] at hbyte
  exact hb (BitVec.eq_of_toNat_eq hbyte)

/-! #### The checksum field in the sum (R104, R131, R134) -/

/-- The checksum field is a word of the view: both take their bytes in the same order. -/
theorem State.field16_eq_pairWord (s : State) (i : Nat) :
    s.field16 i = pairWord s.params.byteOrder (s.bufByte i) (s.bufByte (i + 1)) := by
  have h0 := (s.bufByte i).isLt
  have h1 := (s.bufByte (i + 1)).isLt
  apply BitVec.eq_of_toNat_eq
  rw [State.field16, BitVec.toNat_ofNat]
  cases ho : s.params.byteOrder with
  | be =>
    rw [State.memRead_two_be i ho, pairWord, joinBytes_toNat, Nat.shiftLeft_eq]
    omega
  | le =>
    rw [State.memRead_two_le i ho, pairWord, joinBytes_toNat, Nat.shiftLeft_eq]
    omega

/-- The words of a range that is cut after an even number of bytes. -/
theorem State.words_append (s : State) (i m n : Nat) :
    s.words i (2 * m + n) = s.words i (2 * m) ++ s.words (i + 2 * m) n := by
  induction m generalizing i with
  | zero => simp [State.words, State.bufBytes, wordView_nil]
  | succ m ih =>
    rw [show 2 * (m + 1) + n = 2 * m + n + 2 by omega, State.words_add_two, ih, Nat.mul_succ, State.words_add_two,
      List.cons_append, Nat.add_assoc i, Nat.add_comm 2]

/-- The sum over a frame with `n` bytes of payload, without its checksum field. -/
def State.sumButCksum (s : State) (n : Nat) : Half := onesSum (s.words 0 12 ++ s.words 14 n)

theorem State.frameSum_eq_onesAdd_field16 (s : State) (n : Nat) :
    s.frameSum (14 + n) = onesAdd (s.field16 12) (s.sumButCksum n) := by
  have hsplit : s.words 0 (14 + n) = s.words 0 12 ++ s.field16 12 :: s.words 14 n := by
    rw [show 14 + n = 2 * 6 + (n + 2) by omega, State.field16_eq_pairWord]
    exact (s.words_append 0 6 (n + 2)).trans (congrArg _ (s.words_add_two 12 n))
  have hfirst : s.frameSum (14 + n) = onesSum ([s.field16 12] ++ (s.words 0 12 ++ s.words 14 n)) := by
    rw [State.frameSum, hsplit]
    exact onesSum_eq_of_exactSum_eq (exactSum_perm List.perm_middle)
  rw [hfirst, onesSum_append, State.sumButCksum]
  exact congrArg (onesAdd · _) (zero_onesAdd _)

theorem State.sumButCksum_memWrite (s : State) (n v : Nat) : (s.memWrite 12 2 v).sumButCksum n = s.sumButCksum n := by
  rw [State.sumButCksum, State.words, State.words, State.memWrite_params,
    State.bufBytes_congr fun k _ _ => s.bufByte_memWrite_outside (i := 12) (n := 2) v (by omega),
    State.bufBytes_congr fun k _ _ => s.bufByte_memWrite_outside (i := 12) (n := 2) v (by omega)]
  rfl

/-- The sum over a frame whose checksum field has just been written. -/
theorem State.frameSum_memWrite_cksum (s : State) (n : Nat) (v : Half) :
    (s.memWrite 12 2 v.toNat).frameSum (14 + n) = onesAdd v (s.sumButCksum n) := by
  rw [State.frameSum_eq_onesAdd_field16, State.field16_memWrite, State.sumButCksum_memWrite]

theorem State.bufBytes_memWrite_zero (s : State) (n : Nat) :
    (s.memWrite 12 2 0).bufBytes 0 n = ((s.bufBytes 0 n).set 12 0x00#8).set 13 0x00#8 := by
  rw [← s.bufBytes_putByte 0 n 12, ← State.bufBytes_putByte _ 0 n 13]
  simp [State.memWrite, List.range_succ]

/-! #### FR_ENCODE (R135) -/

theorem frEncodeState_of_le {s : State} (h : 14 + s.hdrPlen.toNat ≤ s.params.bufSize.toNat) :
    frEncodeState s = (s.stampHeader.stampChecksum (14 + s.hdrPlen.toNat)).complete false := by
  obtain ⟨hover, -⟩ | ⟨-, heq⟩ := frEncodeState_cases s
  · omega
  · exact heq

theorem frEncodeState_of_gt {s : State} (h : s.params.bufSize.toNat < 14 + s.hdrPlen.toNat) :
    frEncodeState s = s.clearValid.raise .eOversize := by
  obtain ⟨-, heq⟩ | ⟨hfits, -⟩ := frEncodeState_cases s
  · exact heq
  · omega

/-- FR_ENCODE's header is written by MemWrite alone, so only the buffer changes. -/
theorem State.stampHeader_eq (s : State) : s.stampHeader = { s with pktBuf := s.stampHeader.pktBuf } := by
  rw [State.stampHeader, State.memWrite_eq, State.memWrite_eq (State.memWrite _ 4 4 _), State.memWrite_eq (s.memWrite 0 4 _),
    s.memWrite_eq]

@[simp] theorem State.stampHeader_params (s : State) : s.stampHeader.params = s.params := by simp [State.stampHeader]

@[simp] theorem State.stampHeader_status (s : State) : s.stampHeader.status = s.status := by simp [State.stampHeader]

@[simp] theorem State.stampChecksum_params (s : State) (len : Nat) : (s.stampChecksum len).params = s.params :=
  State.memWrite_params ..

@[simp] theorem State.stampChecksum_status (s : State) (len : Nat) : (s.stampChecksum len).status = s.status :=
  State.memWrite_status ..

/-- A frame in `t` as FR_ENCODE stamps it from `s`: the header fields, and a checksum over the rest (R80, R135, R137). -/
structure EncodedFrame (s t : State) : Prop where
  params : t.params = s.params
  signature : t.field32 0 = s.params.signature
  cmdstat : t.field32 4 = s.hdrCmdstat
  plen : t.field32 8 = s.hdrPlen
  frameLen : t.frameLen.toNat = 14 + s.hdrPlen.toNat
  acc : t.acc = t.sumButCksum s.hdrPlen.toNat
  cksum : t.field16 12 = ~~~ t.acc
  payload : ∀ k, 14 ≤ k → t.bufByte k = s.bufByte k

/-- The stamped header holds the registers, a zero checksum field, and the payload as before. -/
theorem State.stampHeader_fields (s : State) :
    s.stampHeader.field32 0 = s.params.signature ∧ s.stampHeader.field32 4 = s.hdrCmdstat ∧
      s.stampHeader.field32 8 = s.hdrPlen ∧ ∀ k, 14 ≤ k → s.stampHeader.bufByte k = s.bufByte k := by
  refine ⟨?_, ?_, ?_, fun k hk => ?_⟩
  · simp [State.stampHeader, State.field32_memWrite_outside, State.field32_memWrite]
  · simp [State.stampHeader, State.field32_memWrite_outside, State.field32_memWrite]
  · simp [State.stampHeader, State.field32_memWrite_outside, State.field32_memWrite]
  · simp only [State.stampHeader]
    iterate 4 rw [State.bufByte_memWrite_outside _ _ (by omega)]

/-- The sum FR_ENCODE takes is over a zero checksum field. -/
theorem State.frameSum_stampHeader (s : State) (n : Nat) :
    s.stampHeader.frameSum (14 + n) = s.stampHeader.sumButCksum n := by
  rw [State.stampHeader]
  exact (State.frameSum_memWrite_cksum _ n 0#16).trans ((zero_onesAdd _).trans (State.sumButCksum_memWrite _ n 0).symm)

theorem encodedFrame_frEncodeState {s : State} (h : 14 + s.hdrPlen.toNat ≤ s.params.bufSize.toNat) :
    EncodedFrame s (frEncodeState s) := by
  obtain ⟨hsig, hcmdstat, hplen, hpayload⟩ := s.stampHeader_fields
  have hsize := s.params.bufSize.isLt
  rw [frEncodeState_of_le h, State.stampChecksum, s.frameSum_stampHeader]
  generalize hsum : s.stampHeader.sumButCksum s.hdrPlen.toNat = sum
  have houtside (i : Nat) (hi : i + 4 ≤ 12) := s.stampHeader.field32_memWrite_outside (~~~ sum).toNat (n := 2) (.inl hi)
  have hbyte (k : Nat) (hk : 14 ≤ k) :=
    s.stampHeader.bufByte_memWrite_outside (~~~ sum).toNat (i := 12) (n := 2) (.inr hk)
  have hparams := s.stampHeader.memWrite_params 12 2 (~~~ sum).toNat
  have hcksum := s.stampHeader.field16_memWrite 12 (~~~ sum)
  have hrest := s.stampHeader.sumButCksum_memWrite s.hdrPlen.toNat (~~~ sum).toNat
  generalize s.stampHeader.memWrite 12 2 (~~~ sum).toNat = t at *
  exact {
    params := hparams.trans s.stampHeader_params
    signature := (houtside 0 (by decide)).trans hsig
    cmdstat := (houtside 4 (by decide)).trans hcmdstat
    plen := (houtside 8 (by decide)).trans hplen
    frameLen := (BitVec.toNat_ofNat _ _).trans (Nat.mod_eq_of_lt (by omega))
    acc := (hrest.trans hsum).symm
    cksum := hcksum
    payload := fun k hk => (hbyte k hk).trans (hpayload k hk) }

/-- FR_ENCODE writes the buffer, FRAME_LEN, HDR_CKSUM, ACC and STATUS, and nothing else. -/
theorem frEncodeState_frame {s : State} (h : 14 + s.hdrPlen.toNat ≤ s.params.bufSize.toNat) :
    frEncodeState s = { s with
      pktBuf := (frEncodeState s).pktBuf, frameLen := (frEncodeState s).frameLen, hdrCksum := (frEncodeState s).hdrCksum
      acc := (frEncodeState s).acc, status := (frEncodeState s).status } := by
  rw [frEncodeState_of_le h, State.stampChecksum, State.memWrite_eq, s.stampHeader_eq]
  rfl

theorem statusOk_complete_of_status_eq {s t : State} (h : t.status = s.status) (v : Bool) : StatusOk s (t.complete v) v := by
  obtain ⟨hresult, hvalid, hkept⟩ := statusOk_complete t v
  exact ⟨hresult, hvalid, fun k hk => (hkept k hk).trans (by rw [h])⟩

theorem statusOk_frEncodeState {s : State} (h : 14 + s.hdrPlen.toNat ≤ s.params.bufSize.toNat) :
    StatusOk s (frEncodeState s) false := by
  rw [frEncodeState_of_le h]
  exact statusOk_complete_of_status_eq ((State.stampChecksum_status _ _).trans s.stampHeader_status) false

theorem StatusOk.trans {s t u : State} {v w : Bool} (hst : StatusOk s t v) (htu : StatusOk t u w) : StatusOk s u w := by
  obtain ⟨-, -, hst⟩ := hst
  obtain ⟨hresult, hvalid, htu⟩ := htu
  exact ⟨hresult, hvalid, fun k hk => (htu k hk).trans (hst k hk)⟩

section
variable {s t : State} (h : EncodedFrame s t)
include h

/-- The checksum is the complement of the sum over the rest. -/
theorem EncodedFrame.verifies : t.Verifies (14 + s.hdrPlen.toNat) := by
  change t.frameSum _ = _
  rw [t.frameSum_eq_onesAdd_field16, h.cksum, ← h.acc, onesAdd_comm, onesAdd_not_self]

theorem EncodedFrame.acc_eq_frameSum_memWrite_zero : t.acc = (t.memWrite 12 2 0).frameSum (14 + s.hdrPlen.toNat) :=
  h.acc.trans ((zero_onesAdd _).symm.trans (t.frameSum_memWrite_cksum _ 0#16).symm)

/-- Only zero bytes, the signature among them, have the sum zero. -/
theorem EncodedFrame.zero_of_acc_eq_zero (hacc : t.acc = 0#16) :
    s.params.signature = 0#32 ∧ ∀ k, k < 14 + s.hdrPlen.toNat → k ≠ 12 → k ≠ 13 → t.bufByte k = 0#8 := by
  rw [h.acc_eq_frameSum_memWrite_zero, State.frameSum_eq_zero_iff] at hacc
  have hzero : ∀ k, k < 14 + s.hdrPlen.toNat → k ≠ 12 → k ≠ 13 → t.bufByte k = 0#8 := fun k hk h12 h13 =>
    (t.bufByte_memWrite_outside 0 (i := 12) (n := 2) (by omega)).symm.trans (hacc k hk)
  exact ⟨h.signature.symm.trans (State.field32_eq_zero fun k _ hk => hzero k (by omega) (by omega) (by omega)), hzero⟩

theorem EncodedFrame.checksPass (hsize : 14 + s.hdrPlen.toNat ≤ s.params.bufSize.toNat) : t.ChecksPass := by
  unfold State.ChecksPass
  rw [h.frameLen]
  refine ⟨⟨by omega, ?_⟩, ⟨by omega, ?_, ?_⟩, h.verifies⟩
  · rw [h.signature, h.params]
  · rw [h.plen]
  · rwa [h.params]

end

/-! #### FR_DECODE by its verdict (R140, R141) -/

section
variable {s : State}

theorem frDecodeState_of_lt_four (h : s.frameLen.toNat < 4) : frDecodeState s = s.clearValid.raise .eLen := by
  simp [frDecodeState, h]

theorem frDecodeState_of_wrong_signature (h : 4 ≤ s.frameLen.toNat) (hsig : s.field32 0 ≠ s.params.signature) :
    frDecodeState s = s.clearValid.raise .eSig := by
  simp [frDecodeState, Nat.not_lt.mpr h, hsig]

theorem frDecodeState_of_not_lenCheck (hsig : s.SigCheck s.frameLen.toNat) (hlen : ¬ s.LenCheck s.frameLen.toNat) :
    frDecodeState s = s.clearValid.raise .eLen := by
  obtain ⟨-, heq⟩ | ⟨-, hne, -⟩ | ⟨-, -, -, heq⟩ | ⟨hheader, -, hplen, hsize, -⟩ := frDecodeState_cases s
  · exact heq
  · exact absurd hsig.2 hne
  · exact heq
  · exact absurd ⟨hheader, hplen, hsize⟩ hlen

theorem frDecodeState_of_lenCheck (hsig : s.SigCheck s.frameLen.toNat) (hlen : s.LenCheck s.frameLen.toNat) :
    frDecodeState s = s.checkSum s.frameLen.toNat := by
  obtain ⟨hfour, hsig⟩ := hsig
  obtain ⟨hheader, hplen, hsize⟩ := hlen
  obtain ⟨hshort, -⟩ | ⟨-, hne, -⟩ | ⟨-, -, hbad, -⟩ | ⟨-, -, -, -, heq⟩ := frDecodeState_cases s
  · omega
  · exact absurd hsig hne
  · omega
  · exact heq

theorem frDecodeState_of_wrong_cksum (hsig : s.SigCheck s.frameLen.toNat) (hlen : s.LenCheck s.frameLen.toNat)
    (hsum : ¬ s.CksumCheck s.frameLen.toNat) :
    frDecodeState s = ({ s with acc := s.frameSum s.frameLen.toNat } : State).clearValid.raise .eCksum := by
  rw [frDecodeState_of_lenCheck hsig hlen]
  obtain ⟨-, heq⟩ | ⟨hsum', -⟩ := s.checkSum_cases s.frameLen.toNat
  · exact heq
  · exact absurd hsum' hsum

theorem frDecodeState_of_checksPass (h : s.ChecksPass) :
    frDecodeState s = ({ s with acc := 0xFFFF#16 } : State).extractHeader.complete true := by
  obtain ⟨hsig, hlen, hsum⟩ := h
  rw [frDecodeState_of_lenCheck hsig hlen]
  obtain ⟨hsum', -⟩ | ⟨hsum', heq⟩ := s.checkSum_cases s.frameLen.toNat
  · exact absurd hsum hsum'
  · rw [heq, hsum']

/-- A frame that fails a check leaves its sum in ACC when the checksum is wrong, and otherwise STATUS alone. -/
theorem frDecodeState_of_not_checksPass (h : ¬ s.ChecksPass) :
    ∃ e a, e ≠ .ok ∧ (e = .eCksum ∨ a = s.acc) ∧
      frDecodeState s = ({ s with acc := a } : State).clearValid.raise e := by
  by_cases hfour : s.frameLen.toNat < 4
  · exact ⟨.eLen, s.acc, by decide, .inr rfl, frDecodeState_of_lt_four hfour⟩
  by_cases hsig : s.field32 0 = s.params.signature
  case neg => exact ⟨.eSig, s.acc, by decide, .inr rfl, frDecodeState_of_wrong_signature (by omega) hsig⟩
  have hsig : s.SigCheck s.frameLen.toNat := ⟨by omega, hsig⟩
  by_cases hlen : s.LenCheck s.frameLen.toNat
  · exact ⟨.eCksum, _, by decide, .inl rfl, frDecodeState_of_wrong_cksum hsig hlen fun hsum => h ⟨hsig, hlen, hsum⟩⟩
  · exact ⟨.eLen, s.acc, by decide, .inr rfl, frDecodeState_of_not_lenCheck hsig hlen⟩

end

theorem ResultCode.code_eq_ok_iff {c : ResultCode} : c.code = 0#4 ↔ c = .ok := by
  cases c <;> decide

theorem ResultCode.code_eq_eCksum_iff {c : ResultCode} : c.code = 3#4 ↔ c = .eCksum := by
  cases c <;> decide

theorem statusResult_raise (s : State) (e : ResultCode) : statusResult (s.clearValid.raise e).status = e.code := by
  simp

/-- FR_DECODE reports OK for the frames that pass the checks, and for no other. -/
theorem statusResult_frDecodeState_eq_ok_iff (s : State) :
    statusResult (frDecodeState s).status = 0#4 ↔ s.ChecksPass := by
  refine ⟨fun hok => ?_, fun h => ?_⟩
  · by_contra h
    obtain ⟨e, a, he, -, heq⟩ := frDecodeState_of_not_checksPass h
    rw [heq, statusResult_raise] at hok
    exact he (ResultCode.code_eq_ok_iff.mp hok)
  · obtain ⟨hresult, -⟩ := statusOk_complete ({ s with acc := 0xFFFF#16 } : State).extractHeader true
    rwa [frDecodeState_of_checksPass h]

/-! #### A frame changed after FR_ENCODE (R145, R146, R147) -/

section
variable {s t : State} (h : EncodedFrame s t) (hsize : 14 + s.hdrPlen.toNat ≤ s.params.bufSize.toNat)
include h

/-- Another FRAME_LEN is below 4, or passes the signature check and differs from the length field. -/
theorem EncodedFrame.decode_of_frameLen_ne {len : Word} (hlen : len ≠ t.frameLen) :
    frDecodeState { t with frameLen := len } = ({ t with frameLen := len } : State).clearValid.raise .eLen := by
  by_cases hfour : len.toNat < 4
  · exact frDecodeState_of_lt_four hfour
  have hsig : t.field32 0 = t.params.signature := h.signature.trans (congrArg _ h.params).symm
  refine frDecodeState_of_not_lenCheck ⟨Nat.le_of_not_lt hfour, hsig⟩ fun ⟨_, heq, _⟩ => hlen (BitVec.eq_of_toNat_eq ?_)
  have hplen : ({ t with frameLen := len } : State).field32 8 = s.hdrPlen := h.plen
  rw [hplen] at heq
  exact heq.trans h.frameLen.symm

include hsize

/-- Another byte of the signature fails the signature check, another byte of the length field the length check; any other
leaves both fields and fails the checksum check. -/
theorem EncodedFrame.decode_of_byte_ne {k : Nat} {b : Byte} (hk : k < 14 + s.hdrPlen.toNat) (hb : b ≠ t.bufByte k) :
    statusResult (frDecodeState (t.putByte k b)).status =
      if k < 4 then 1#4 else if 8 ≤ k ∧ k < 12 then 2#4 else 3#4 := by
  obtain ⟨⟨hfour, hsig⟩, ⟨hheader, hplen, hfits⟩, hsum⟩ := h.checksPass hsize
  split
  next hfirst =>
    have hne := t.field32_putByte_ne 0 hfirst (by rwa [Nat.zero_add])
    rw [Nat.zero_add, hsig] at hne
    rw [frDecodeState_of_wrong_signature (s := t.putByte k b) hfour hne]
    exact statusResult_raise _ .eSig
  next hfirst =>
    have hsig' : (t.putByte k b).SigCheck t.frameLen.toNat :=
      ⟨hfour, (t.field32_putByte_outside b (by omega)).trans hsig⟩
    split
    next hlength =>
      obtain ⟨k, rfl⟩ := Nat.exists_eq_add_of_le hlength.1
      have hne := t.field32_putByte_ne 8 (show k < 4 by omega) hb
      rw [frDecodeState_of_not_lenCheck (s := t.putByte (8 + k) b) hsig' fun ⟨_, hplen', _⟩ =>
        hne (BitVec.eq_of_toNat_eq (Nat.add_left_cancel (hplen'.symm.trans hplen)))]
      exact statusResult_raise _ .eLen
    next hlength =>
      have hlen' : (t.putByte k b).LenCheck t.frameLen.toNat := by
        refine ⟨hheader, ?_, hfits⟩
        rwa [t.field32_putByte_outside b (by omega)]
      rw [frDecodeState_of_wrong_cksum (s := t.putByte k b) hsig' hlen' (hsum.not_putByte (h.frameLen ▸ hk) hb)]
      exact statusResult_raise _ .eCksum

/-- Where the rest of the frame sums to 0xFFFF, a checksum field of 0xFFFF verifies as well. -/
theorem EncodedFrame.checksPass_alias (hacc : t.acc = 0xFFFF#16) : (t.memWrite 12 2 0xFFFF).ChecksPass := by
  obtain ⟨hsig, hlen, -⟩ := h.checksPass hsize
  have hframe : (t.memWrite 12 2 0xFFFF).frameLen = t.frameLen := t.memWrite_frameLen 12 2 _
  unfold State.ChecksPass State.SigCheck State.LenCheck
  rw [hframe, State.memWrite_params, t.field32_memWrite_outside _ (by decide), t.field32_memWrite_outside _ (by decide)]
  refine ⟨hsig, hlen, ?_⟩
  calc (t.memWrite 12 2 0xFFFF).frameSum t.frameLen.toNat
      = onesAdd 0xFFFF#16 (t.sumButCksum s.hdrPlen.toNat) := by rw [h.frameLen]; exact t.frameSum_memWrite_cksum _ 0xFFFF#16
    _ = 0xFFFF#16 := by rw [← h.acc, hacc]; decide

end

/-! #### The statements -/

/-- Settles O27: the bytes of MemWrite by their weights, which MemRead sums. -/
theorem fieldAccessFollowsTheByteOrder : Obligations.FieldAccessFollowsTheByteOrder := by
  refine fun s i v => ⟨fun ho => ⟨State.memRead_four_be i ho, State.memRead_two_be i ho, fun k hk => ?_, fun k hk => ?_⟩,
    fun ho => ⟨State.memRead_four_le i ho, State.memRead_two_le i ho, fun k hk => ?_, fun k hk => ?_⟩,
    fun n j _ hj => s.bufByte_memWrite_outside v hj, fun n _ => s.memRead_memWrite i n v⟩
  all_goals
    rw [s.bufByte_memWrite_inside i v hk, ho]
    rfl

/-- Settles O28: the stamped frame of `EncodedFrame`, or `State.raise`. -/
theorem frEncodeStampsTheFrame : Obligations.FrEncodeStampsTheFrame := by
  refine fun s => ⟨rfl, fun hsize => ?_, fun hover => ?_⟩
  · have h := encodedFrame_frEncodeState hsize
    have hcksum : (frEncodeState s).hdrCksum = ~~~ (frEncodeState s).acc := by
      rw [frEncodeState_of_le hsize]
      rfl
    refine ⟨frEncodeState s, (frEncodeState s).acc, exec_frEncode s, h.signature, h.cmdstat, h.plen, h.cksum, ?_,
      h.frameLen, hcksum, rfl, statusOk_frEncodeState hsize, h.payload, frEncodeState_frame hsize, fun hones => ?_⟩
    · rw [← State.bufBytes_memWrite_zero, ← h.params, ← State.memWrite_params _ 12 2 0]
      exact h.acc_eq_frameSum_memWrite_zero
    · exact h.zero_of_acc_eq_zero (BitVec.not_inj.mp (hcksum.symm.trans hones))
  · exact ⟨_, (exec_frEncode s).trans (congrArg _ (frEncodeState_of_gt hover)), statusError_raise s .eOversize, rfl⟩

/-- Settles O29: the stored checksum completes the sum over the rest. -/
theorem encodedFrameVerifies : Obligations.EncodedFrameVerifies := fun s hsize =>
  ⟨_, exec_frEncode s, (encodedFrame_frEncodeState hsize).verifies⟩

/-- Settles O30: one verdict in each branch. -/
theorem frDecodeReportsTheFirstFailingCheck : Obligations.FrDecodeReportsTheFirstFailingCheck := by
  refine fun s => ⟨rfl, frDecodeState s, exec_frDecode s, fun i => ?_, ?_⟩
  · by_cases h : s.ChecksPass
    · rw [frDecodeState_of_checksPass h]
      rfl
    · obtain ⟨e, a, -, -, heq⟩ := frDecodeState_of_not_checksPass h
      rw [heq]
      rfl
  by_cases hfour : s.frameLen.toNat < 4
  · rw [if_pos hfour, frDecodeState_of_lt_four hfour]
    exact ⟨statusError_raise s .eLen, rfl⟩
  rw [if_neg hfour]
  by_cases hsig : s.field32 0 = s.params.signature
  case neg =>
    rw [if_pos hsig, frDecodeState_of_wrong_signature (Nat.le_of_not_lt hfour) hsig]
    exact ⟨statusError_raise s .eSig, rfl⟩
  rw [if_neg (not_not.mpr hsig)]
  have hsig : s.SigCheck s.frameLen.toNat := ⟨Nat.le_of_not_lt hfour, hsig⟩
  by_cases hlen : s.LenCheck s.frameLen.toNat
  case neg =>
    rw [if_pos (by omega), frDecodeState_of_not_lenCheck hsig hlen]
    exact ⟨statusError_raise s .eLen, rfl⟩
  rw [if_neg (by omega)]
  by_cases hsum : onesSum (s.words 0 s.frameLen.toNat) = 0xFFFF#16
  case neg =>
    rw [if_pos hsum, frDecodeState_of_wrong_cksum hsig hlen hsum]
    exact ⟨statusError_raise { s with acc := s.frameSum s.frameLen.toNat } .eCksum, rfl⟩
  rw [if_neg (not_not.mpr hsum), frDecodeState_of_checksPass ⟨hsig, hlen, hsum⟩]
  exact ⟨statusOk_complete_of_status_eq rfl true, rfl, rfl, rfl, rfl⟩

/-- Settles O31: only the verdict of `State.ChecksPass` is OK, and it alone sets VALID. -/
theorem frDecodeAcceptsExactlyTheCheckedFrames : Obligations.FrDecodeAcceptsExactlyTheCheckedFrames := by
  intro s
  have hresult := statusResult_frDecodeState_eq_ok_iff s
  refine ⟨_, exec_frDecode s, hresult, (statusValid_frDecodeState s).trans hresult.symm, fun hok => ?_⟩
  obtain ⟨-, ⟨-, hplen, -⟩, -⟩ := hresult.mp hok
  rw [frDecodeState_of_checksPass (hresult.mp hok)]
  exact ⟨rfl, (Nat.add_comm _ _).trans hplen.symm, rfl, rfl⟩

/-- Settles O32: a failed check raises its error, with at most ACC written before. -/
theorem failedDecodeExportsNothing : Obligations.FailedDecodeExportsNothing := by
  intro s h
  obtain ⟨e, a, he, hacc, heq⟩ := frDecodeState_of_not_checksPass h
  obtain ⟨hresult, hvalid, -⟩ := statusError_raise { s with acc := a } e
  refine ⟨_, (exec_frDecode s).trans (congrArg _ heq), ?_, hvalid, rfl, fun hne => ?_⟩
  · rw [hresult]
    exact mt ResultCode.code_eq_ok_iff.mp he
  · rw [hresult] at hne
    exact hacc.resolve_left (mt ResultCode.code_eq_eCksum_iff.mpr hne)

/-- Settles O33: the signature is the first check of 4 bytes or more. -/
theorem wrongSignatureIsRejected : Obligations.WrongSignatureIsRejected := fun s hfour hsig =>
  ⟨_, (exec_frDecode s).trans (congrArg _ (frDecodeState_of_wrong_signature hfour hsig)), statusResult_raise s .eSig⟩

/-- Settles O34: an encoded frame passes the checks, and FR_DECODE reads back the fields. -/
theorem encodeThenDecodeRoundTrip : Obligations.EncodeThenDecodeRoundTrip := by
  intro s hsize
  have h := encodedFrame_frEncodeState hsize
  refine ⟨_, _, exec_frEncode s, (exec_frDecode _).trans (congrArg _ (frDecodeState_of_checksPass (h.checksPass hsize))),
    (statusOk_frEncodeState hsize).trans (statusOk_complete_of_status_eq rfl true), h.cmdstat, h.plen, h.payload⟩

/-- Settles O35: the length field still holds the encoded length. -/
theorem lengthMismatchIsRejected : Obligations.LengthMismatchIsRejected := by
  refine fun s len hsize => ⟨_, exec_frEncode s, fun hlen => ⟨_, exec_frDecode _, ?_⟩⟩
  rw [(encodedFrame_frEncodeState hsize).decode_of_frameLen_ne hlen]
  exact statusResult_raise _ .eLen

/-- Settles O36: a flipped bit changes its byte. -/
theorem singleBitFlipIsRejected : Obligations.SingleBitFlipIsRejected := fun s _ _ hsize hk hj =>
  ⟨_, _, exec_frEncode s, exec_frDecode _,
    (encodedFrame_frEncodeState hsize).decode_of_byte_ne hsize hk (xor_bit_ne_self _ hj)⟩

/-- Settles O37: both checksum fields complete a sum of 0xFFFF. -/
theorem checksumAliasIsAccepted : Obligations.ChecksumAliasIsAccepted := by
  intro s t hsize hexec hacc
  cases (exec_frEncode s).symm.trans hexec
  have h := encodedFrame_frEncodeState hsize
  refine ⟨by rw [h.cksum, hacc]; decide, _,
    (exec_frDecode _).trans (congrArg _ (frDecodeState_of_checksPass (h.checksPass_alias hsize hacc))), ?_, ?_⟩
  · exact (statusOk_frEncodeState hsize).trans (statusOk_complete_of_status_eq (State.memWrite_status ..) true)
  · exact State.field16_memWrite _ 12 0xFFFF#16

end Sys2Proof.Machine

/-! ### Runs without FAULT (spec/60_exceptions.md)

Each step performs the oldest input and leaves the others to come, so the inputs of the first `n` steps are the first `n` of the
list; and a step that is no reset keeps a set FAULT (O44). -/

namespace Sys2Proof.Machine

/-! #### The inputs still to come (R7) -/

theorem ckBufState_inputs (s : State) : (ckBufState s).inputs = s.inputs := by
  obtain ⟨-, heq⟩ | ⟨-, heq⟩ := ckBufState_cases s <;> simp [heq]

theorem frEncodeState_inputs (s : State) : (frEncodeState s).inputs = s.inputs := by
  obtain ⟨-, heq⟩ | ⟨-, heq⟩ := frEncodeState_cases s
  · simp [heq]
  · simp [heq, State.stampChecksum, State.stampHeader]

theorem State.checkSum_inputs (s : State) (len : Nat) : (s.checkSum len).inputs = s.inputs := by
  obtain ⟨-, heq⟩ | ⟨-, heq⟩ := s.checkSum_cases len <;> simp [heq]

theorem frDecodeState_inputs (s : State) : (frDecodeState s).inputs = s.inputs := by
  obtain ⟨-, heq⟩ | ⟨-, -, heq⟩ | ⟨-, -, -, heq⟩ | ⟨-, -, -, -, heq⟩ := frDecodeState_cases s
  · simp [heq]
  · simp [heq]
  · simp [heq]
  · exact heq ▸ s.checkSum_inputs _

theorem commandState_inputs (i : Instr) (s : State) : (commandState i s).inputs = s.inputs := by
  cases i with
  | ckClr | ckAdd16 | ckAdd8h => exact State.setAccOk_inputs s _
  | ckBuf => exact ckBufState_inputs s
  | frEncode => exact frEncodeState_inputs s
  | frDecode => exact frDecodeState_inputs s

/-- An access leaves the inputs that follow it as they are. -/
theorem hostAccess_inputs {s t : State} {a : Access} (h : s.hostAccess a = .next t) : t.inputs = s.inputs := by
  cases accessKind s a with
  | command i =>
    rw [State.hostAccess_command, exec_eq] at h
    cases h
    exact commandState_inputs i s
  | illegal w hw => cases (State.hostAccess_illegal hw).symm.trans h; exact State.illegalCommand_inputs s
  | readReg r => cases (State.hostAccess_readReg s r).symm.trans h; rfl
  | storeData v => cases (State.hostAccess_storeData s v).symm.trans h; rfl
  | storeFrameLen v => cases (State.hostAccess_storeFrameLen s v).symm.trans h; rfl
  | storeHdrCmdstat v => cases (State.hostAccess_storeHdrCmdstat s v).symm.trans h; rfl
  | storeHdrPlen v => cases (State.hostAccess_storeHdrPlen s v).symm.trans h; rfl
  | readByte i hi => cases (State.hostAccess_readByte hi).symm.trans h; rfl
  | storeByte i b hi => cases (State.hostAccess_storeByte b hi).symm.trans h; rfl
  | busError a ha => cases (State.hostAccess_busError ha).symm.trans h; rfl

/-- A step takes the oldest input and no other. -/
theorem step_takes_one_input {s t : State} (h : step s = .next t) : ∃ input, s.inputs = input :: t.inputs := by
  obtain ⟨a, rest, hin, hnext⟩ | ⟨rest, hin, rfl⟩ := step_next_cases h
  · exact ⟨.access a, by simp [hostAccess_inputs hnext, hin]⟩
  · exact ⟨.reset, by simp [hin]⟩

/-! #### FAULT over a run (R26, R173) -/

/-- FAULT is a sticky bit: a step that is no reset keeps it set. -/
theorem step_keeps_faulted {s t : State} (h : step s = .next t) (hreset : s.inputs.head? ≠ some .reset)
    (hs : s.Faulted) : t.Faulted :=
  Bool.of_not_eq_false fun hclear =>
    hreset (resetInputRestoresTheResetValues.2 s t 31 h (by decide) hs hclear)

/-- Settles O42, by induction on the number of steps: the states after the first step have no FAULT, so the first has none. -/
theorem noFaultAtTheEndMeansNoFaultBefore : Obligations.NoFaultAtTheEndMeansNoFaultBefore := by
  intro n
  induction n with
  | zero =>
    intro s t hrun _ ht k hk
    obtain rfl := Nat.le_zero.mp hk
    exact ⟨t, hrun, ht⟩
  | succ n ih =>
    intro s t hrun hreset ht k hk
    obtain ⟨u, hstep, hrest⟩ := run_succ_next hrun
    obtain ⟨input, hin⟩ := step_takes_one_input hstep
    rw [hin, List.take_succ_cons, List.mem_cons, not_or] at hreset
    obtain ⟨hfirst, hlater⟩ := hreset
    have hclear := ih u t hrest hlater ht
    cases k with
    | zero =>
      obtain ⟨_, ⟨⟩, hu⟩ := hclear 0 n.zero_le
      exact ⟨s, rfl, mt (step_keeps_faulted hstep (by simpa [hin] using Ne.symm hfirst)) hu⟩
    | succ k => exact run_succ k hstep ▸ hclear k (Nat.le_of_succ_le_succ hk)

end Sys2Proof.Machine

/-! ### The buffer after a reset

After reset no byte of PKT_BUF is written, so each holds the free value of the new launch (R20, R41, R200). -/

namespace Sys2Proof.Machine

/-- A byte that nobody wrote since the last reset holds the free value of the launch (R20). -/
theorem State.bufByte_of_unwritten {s : State} {i : Nat} (h : Memory.get? s.pktBuf i = none) :
    s.bufByte i = Config.initialByte s.launch i := by
  simp [State.bufByte, h]

@[simp] theorem State.applyReset_bufByte (s : State) (i : Nat) :
    s.applyReset.bufByte i = Config.initialByte (s.launch + 1) i :=
  State.bufByte_of_unwritten (by rw [State.applyReset_pktBuf]; rfl)

/-- Settles O45: the next state is `State.applyReset`, whose buffer holds no written byte. -/
theorem resetLeavesTheBufferUnspecified : Obligations.ResetLeavesTheBufferUnspecified :=
  fun _ _ => ⟨_, step_of_reset rfl, State.applyReset_bufByte _⟩

end Sys2Proof.Machine
